-- ==== Sys2Proof/Word.lean ====
section
/-! DEFINITION. The word types of the IS-416 (spec/00_scope.md, Section 0.6): bytes, 40-bit addresses, the numbers
that name requesters, apertures, tags, slots and walk engines, and the two 8-bit numbers that wrap. -/

namespace Sys2Proof

/-- One byte. -/
abbrev Byte := BitVec 8

/-- A 40-bit byte address, upstream or downstream (Section 0.6, Addresses). -/
abbrev Addr := BitVec 40

/-- A requester number, 0 to 15 (R72). -/
abbrev ReqId := Fin 16

/-- An aperture number, 0 to 15 (R1). -/
abbrev ApId := Fin 16

/-- A memory-port tag, 0 to 15 (R139). -/
abbrev TagId := Fin 16

/-- A read slot number, 0 to 7 (R109). -/
abbrev SlotId := Fin 8

/-- A walk engine, 0 or 1 (R63). -/
abbrev EngineId := Fin 2

/-- A list generation, 0 to 255, wrapping (R4). -/
abbrev Gen := BitVec 8

/-- A write sequence number, modulo 256 (R91). -/
abbrev Seq := BitVec 8

/-- The 64 byte lanes of a port: lane n is bits 8n+7 down to 8n (R73, R138). -/
abbrev Lanes := BitVec 512

end Sys2Proof
end

