-- ==== Sys2Proof/Syntax.lean ====
section
/-! DEFINITION. The commands of the block: one constructor for each row of spec/opcode_table.json, with its operands. -/

namespace Sys2Proof

/-- An owner of pieces: a post entry, named by its requester and sequence number (R91: each once among one
requester's queued entries), or a read slot, named by its number. -/
inductive OwnerRef where
  | entry (r : ReqId) (q : Seq)
  | slot (n : SlotId)
  deriving DecidableEq, Repr

/-- The owner of one memory operation (R140): a walk engine, a line of the running validation job (counted from 0),
or a piece of a post entry or slot. -/
inductive OpName where
  | walk (e : EngineId)
  | line (k : Nat)
  | piece (o : OwnerRef) (i : Nat)
  deriving DecidableEq, Repr

/-- The commands and events of the part, one per row of spec/opcode_table.json. -/
inductive Instr where
  /-- A WRITE presentation (R72, R73, R90): requester, address, length field, data lanes, byte enables. -/
  | write (r : ReqId) (a : Addr) (len : BitVec 7) (lanes : Lanes) (enables : BitVec 64)
  /-- A READ presentation (R72, R110). -/
  | read (r : ReqId) (a : Addr) (len : BitVec 7)
  /-- A SYNC presentation (R72, R133); its address, length and data lines are not examined. -/
  | sync (r : ReqId)
  /-- A presentation whose kind field carries code 3 (R77). -/
  | unassignedKind (r : ReqId)
  /-- A memory response OK under a tag, with the port's data lanes (R138, R144). -/
  | responseOk (t : TagId) (lanes : Lanes)
  /-- A memory response BUSY (R145). -/
  | responseBusy (t : TagId)
  /-- A memory response ERROR, or one whose code is none of OK and BUSY (R138, R147). -/
  | responseError (t : TagId) (code : Nat)
  /-- The expiry of a tag's response timer (R149). -/
  | responseTimeout (t : TagId)
  /-- The expiry of a slot's discard timer (R119). -/
  | discardExpiry (n : SlotId)
  /-- The end of one operation's backoff (R146). -/
  | backoffEnd (o : OpName)
  /-- The time base produces a tick (R148). -/
  | tick
  /-- A FETCH frame (R167): its length byte, its CRC byte and how many bytes the host clocks after it. -/
  | fetch (len crc : Byte) (clocks : Nat)
  /-- Complete command frames with a good CRC, given by their argument bytes (R165, R177). -/
  | ident (args : List Byte)
  | getStatus (args : List Byte)
  | setGlobal (args : List Byte)
  | getRequester (args : List Byte)
  | setRequester (args : List Byte)
  | load (args : List Byte)
  | rebind (args : List Byte)
  | retire (args : List Byte)
  | setAccess (args : List Byte)
  | query (args : List Byte)
  | invalidate (args : List Byte)
  | popReport (args : List Byte)
  | reset (args : List Byte)
  /-- A frame whose chip select rises before its CRC byte is complete: the whole bytes received (R165). -/
  | incompleteFrame (bytes : List Byte)
  /-- A complete frame with a good CRC and an unassigned command code (R166). -/
  | unknownCommand (code : Byte) (args : List Byte)
  /-- RESETn goes low (R175). -/
  | hardwareReset
  /-- RESETn is released (R148, R175). -/
  | resetnRelease
  /-- The soft reset completes (R174). -/
  | softResetComplete
  /-- A DRAINING aperture reaches FREE (R23). -/
  | drainComplete (k : ApId)
  /-- Settling of an aperture ends (R17). -/
  | settlingEnd (k : ApId)
  /-- The head post entry of a requester leaves (R99, R100). -/
  | entryLeave (r : ReqId)
  /-- The head post entry of a requester becomes eligible (R95, R96). -/
  | entryEligible (r : ReqId)
  /-- A slot's write fence is met (R112). -/
  | fenceMet (n : SlotId)
  /-- The data-class arbiter makes a grant (R142). -/
  | arbiterGrant
  /-- An available walk engine takes the oldest QUEUED walk request (R63). -/
  | walkStart
  /-- The job at the head of the validation queue becomes RUNNING (R28). -/
  | jobStart
  /-- The running job issues a line read (R31, R141). -/
  | validationReadIssue
  /-- The unqueued pieces are offered again (R61). -/
  | unqueuedReoffer
  /-- A complete frame whose CRC byte is wrong (R166). -/
  | badFrame (code : Byte) (args : List Byte) (crc : Byte)
  deriving DecidableEq, Repr

end Sys2Proof
end

