-- ==== Sys2Proof/Decode.lean ====
section
/-! DEFINITION. The block takes commands, not encoded instructions: spec/opcode_table.json gives no row any bits, so no
word spells a command. -/

namespace Sys2Proof

/-- The command that a table word spells: none, since the table gives no row a bit pattern. -/
def decodeTableWord (_nbits _w : Nat) : Option Instr := none

end Sys2Proof
end

