-- ==== Sys2Proof/Config.lean ====
section
/-! DEFINITION. What the part fixes (its identity, R169) and the two things the spec leaves open for which the model
takes a free value: an opaque constant applied to the counter `State.choices`. -/

namespace Sys2Proof

/-- The family code of the Ilsanto IS-416 (R169). -/
def Config.familyCode : Byte := 0x16

/-- The revision code of the parts the manual describes (R169). -/
def Config.revisionCode : Byte := 1

/-- The interval ends that one tick can bring (R119, R146, R149): a tag's response timer, a slot's discard timer, or
the backoffs, which all end together at the tick. -/
inductive Expiry where
  | response (t : TagId)
  | discard (n : SlotId)
  | backoffs
  deriving DecidableEq, Repr

/-- FREE VALUE (DESIGN CHOICE, log entry 3, safe). The order in which the interval ends of one tick are taken: the spec fixes none
(R158: posts of separate blocks "come with no order between them, and either may be taken first"). -/
opaque Config.tickOrder : Nat → List Expiry

/-- FREE VALUE (DESIGN CHOICE, log entry 4, safe). Whether a memory response that arrives while RESETn is low is taken (and is then stray,
R151) or not seen: the spec speaks only of responses after the release (R155). -/
opaque Config.responseTakenInReset : Nat → Bool

end Sys2Proof
end

