-- ==== Sys2Proof/Machine/Bytes.lean ====
section
/-! DEFINITION. Bytes, lanes and the CRC-8: little-endian fields (Section 10.8), the 64 byte lanes of the two data
ports (R73, R138) and the check byte of a management frame (R166). -/

namespace Sys2Proof.Machine

/-- The `n` bytes of `v`, least significant first (Section 10.8). -/
def leBytes (n v : Nat) : List Byte :=
  (List.range n).map fun i => BitVec.ofNat 8 (v >>> (8 * i))

/-- The number that bytes spell, least significant first (Section 10.8). -/
def leNat (bs : List Byte) : Nat :=
  bs.foldr (fun b acc => b.toNat + 256 * acc) 0

/-- The number in bytes `i` to `i + n - 1` of a list (bytes past its end read as zero). -/
def field (bs : List Byte) (i n : Nat) : Nat :=
  leNat ((bs.drop i).take n)

/-- One byte of a list (zero past its end). -/
def byteAt (bs : List Byte) (i : Nat) : Byte := bs.getD i 0

/-- A Boolean as bit `k` of a byte. -/
def flagBit (k : Nat) (b : Bool) : Nat := if b then 2 ^ k else 0

/-- The byte on lane `n` (R73). -/
def laneByte (l : Lanes) (n : Nat) : Byte := l.extractLsb' (8 * n) 8

/-- The position of an address in its 64-byte line. -/
def linePos (a : Addr) : Nat := a.toNat % 64

/-- The lane that carries byte `j` of an access at `a`: its place in the 64-byte line in which it lies (R73, R138). An access
within one line goes no further than lane 63; of one that runs on past the end of its line, as a piece may, the bytes beyond
begin again at lane 0 (DEDUCED, log entry 17, unsafe). -/
def byteLane (a : Addr) (j : Nat) : Nat := (linePos a + j) % 64

/-- The `n` bytes on the lanes of an access at `a`, in address order (R73, R138). -/
def bytesOfLanes (a : Addr) (n : Nat) (l : Lanes) : List Byte :=
  (List.range n).map fun j => laneByte l (byteLane a j)

/-- Bytes driven on the lanes of an access at `a`, zero on every other lane (R73). -/
def lanesOfBytes (a : Addr) (bs : List Byte) : Lanes :=
  BitVec.ofNat 512 (leNat bs <<< (8 * linePos a))

/-- One bit of the CRC-8 with polynomial x^8 + x^2 + x + 1, most significant bit first (R166). -/
def crcShift (c : Byte) : Byte :=
  if c.msb then (c <<< 1) ^^^ 0x07 else c <<< 1

/-- One byte of the CRC-8 (R166). -/
def crcByte (c b : Byte) : Byte :=
  (List.range 8).foldl (fun c _ => crcShift c) (c ^^^ b)

/-- The CRC-8 of a run of bytes, initial value 0, no reflection, no final inversion (R166). -/
def crc8 (bs : List Byte) : Byte := bs.foldl crcByte 0

/-- The check byte of a command frame: the CRC-8 of its code, its length byte and its arguments (R165, R166). -/
def frameCrc (code : Byte) (args : List Byte) : Byte :=
  crc8 (code :: BitVec.ofNat 8 args.length :: args)

end Sys2Proof.Machine
end

