-- ==== Sys2Proof/Machine/State.lean ====
section
/-! DEFINITION. The state of the IS-416: every record, queue, counter, setting and pin the spec gives the part, and the
queue of the commands that wait. Plain data throughout. -/

namespace Sys2Proof.Machine

/-! ### Names of the manual -/

/-- The kind of an extent (R7). -/
inductive ExtentKind where
  | map | zero | rom | guard
  deriving DecidableEq, Repr

/-- Why an extent entry is bad, in the order of R8. -/
inductive BadEntry where
  | notValid | misaligned | zeroLength | badKind | tagMismatch | targetOverflow
  deriving DecidableEq, Repr

/-- How a memory operation fails (R145, R147, R149). -/
inductive MemCause where
  | memoryError | retryExhausted | responseTimeout
  deriving DecidableEq, Repr

/-- The causes of Section 9.2. -/
inductive Cause where
  | romWrite | guardHit | beyondMap | withdrawn | memoryError | retryExhausted | responseTimeout
  | badEntry | listChanged | tooLong | aborted
  deriving DecidableEq, Repr

/-- The sub-reason of a report (R157): a bad-entry sub-reason, or the memory cause of a failed line read. -/
inductive SubReason where
  | bad (b : BadEntry)
  | mem (c : MemCause)
  deriving DecidableEq, Repr

/-- The kinds of report (Section 9.2). -/
inductive ReportKind where
  | writeLost | readFailed | readDiscarded | apertureFaulted | loadDone | loadFailed
  | rebindDone | rebindFailed | retireDone | lateResponse | resetDone
  deriving DecidableEq, Repr

/-- A report record (R157): a kind and ten optional fields. -/
structure Report where
  kind : ReportKind
  cause : Option Cause := none
  sub : Option SubReason := none
  requester : Option ReqId := none
  aperture : Option ApId := none
  generation : Option Gen := none
  sequence : Option Seq := none
  address : Option Addr := none
  windowOffset : Option Nat := none
  extentIndex : Option Nat := none
  tag : Option TagId := none
  deriving DecidableEq, Repr

/-! ### Apertures (Chapter 1) -/

/-- The phase of a REBINDING aperture (R1). -/
inductive Phase where
  | validating | settling
  deriving DecidableEq, Repr

/-- The state of an aperture; the phase is present exactly in REBINDING (R1). -/
inductive ApState where
  | free | loading | active | rebinding (p : Phase) | draining | faulted
  deriving DecidableEq, Repr

/-- A list as a command names it: address, entry count and list tag (R12, R14). -/
structure ListRef where
  address : Addr
  count : Nat
  tag : Byte
  deriving DecidableEq, Repr

/-- A resume point: an extent index and that extent's start offset (R1). -/
structure ResumePoint where
  index : Nat
  start : Nat
  deriving DecidableEq, Repr

/-- An aperture record (Section 1.1); the defaults are the values after either reset. -/
structure Aperture where
  state : ApState := .free
  windowBase : Addr := 0
  windowSize : Nat := 0
  listAddress : Addr := 0
  entryCount : Nat := 0
  listTag : Byte := 0
  mappedLength : Nat := 0
  readAllowed : Bool := false
  writeAllowed : Bool := false
  mask : BitVec 16 := 0
  generation : Gen := 0
  resume : Option ResumePoint := none
  stride : Nat := 1
  inFlight : Nat := 0
  settling : Nat := 0
  pendingList : Option ListRef := none
  faultCount : Nat := 0
  deriving DecidableEq, Repr

/-- The 32 checkpoint places of one aperture, or of the build buffer: invalid, or valid with a window offset (R41). -/
abbrev Checkpoints := Vector (Option Nat) 32

/-! ### The extent cache (Section 3.1) -/

/-- An extent cache entry; the defaults but for the rank are the reset values (Section 3.1). -/
structure CacheEntry where
  valid : Bool := false
  aperture : ApId := 0
  generation : Gen := 0
  extentIndex : Nat := 0
  start : Nat := 0
  length : Nat := 0
  target : Addr := 0
  kind : ExtentKind := .map
  rank : Nat
  /-- MODEL FIELD: the place of the entry's reading among the readings installed (R51, log entry 18) -/
  reading : Nat := 0
  deriving DecidableEq, Repr

/-! ### Owners: post entries and read slots (Sections 1.3, 3.2, 5.1, 6.1) -/

/-- Where an owner of the translated path lies: its aperture and window offset (R80). -/
structure Place where
  aperture : ApId
  offset : Nat
  deriving DecidableEq, Repr

/-- The state of a piece (Sections 5.1 and 6.1); READ carries the bytes that were read. -/
inductive PieceState where
  | pending | issued | written | read (bytes : List Byte) | ended
  deriving DecidableEq, Repr

/-- A piece (R10). `offset` is its first byte's position in the request. -/
structure Piece where
  index : Nat
  offset : Nat
  length : Nat
  extentIndex : Option Nat
  kind : ExtentKind
  target : Option Addr
  generation : Option Gen
  state : PieceState
  deriving DecidableEq, Repr

/-- What an owner in TRANSLATING waits on (Section 3.2). -/
inductive Waiting where
  | none | attached | unqueued
  deriving DecidableEq, Repr

/-- The translation progress record (Section 3.2). -/
structure Progress where
  nextPiece : Nat
  nextOffset : Nat
  endOffset : Nat
  generation : Gen
  waiting : Waiting
  deriving DecidableEq, Repr

/-- A failure cause with its detail (Sections 5.1 and 6.1), and the generation its report carries. -/
structure Failure where
  cause : Cause
  sub : Option BadEntry := none
  extentIndex : Option Nat := none
  windowOffset : Option Nat := none
  tag : Option TagId := none
  generation : Option Gen := none
  deriving DecidableEq, Repr

/-- What a post entry and a read slot have in common. `age` is the model's: the order of creation (R54). -/
structure OwnerCore where
  requester : ReqId
  address : Addr
  length : Nat
  place : Option Place
  progress : Option Progress := none
  pieces : List Piece := []
  generation : Option Gen := none
  settlingMark : Bool := false
  failure : Option Failure := none
  age : Nat
  deriving DecidableEq, Repr

/-- The state of a post entry (R89). -/
inductive EntryState where
  | translating | ready | issued | done | failed
  deriving DecidableEq, Repr

/-- A post entry (Section 5.1). -/
structure PostEntry where
  core : OwnerCore
  sequence : Seq
  data : List Byte
  state : EntryState
  deriving DecidableEq, Repr

/-- The state of an occupied slot (R109); an EMPTY slot is `none`. -/
inductive SlotState where
  | translating | ordered | reading | ready | failed
  deriving DecidableEq, Repr

/-- An occupied read slot (Section 6.1). -/
structure Slot where
  core : OwnerCore
  fence : Seq
  fenceMet : Bool
  data : List Byte := []
  timer : Option Nat := none
  state : SlotState
  deriving DecidableEq, Repr

/-! ### Requesters (Section 7.1) -/

/-- How a failed read is answered (R110). -/
inductive ReadFailureMode where
  | refuse | ones
  deriving DecidableEq, Repr

/-- A requester record (Section 7.1); the defaults are the values after either reset. -/
structure Requester where
  enabled : Bool := true
  confined : Bool := false
  postedLimit : Nat := 4
  slotLimit : Nat := 2
  readFailureMode : ReadFailureMode := .refuse
  refusedCount : Nat := 0
  taken : Seq := 0
  completed : Seq := 0
  /-- The SYNC mark with its mark reached field, present together (Section 7.1). -/
  mark : Option (Seq × Bool) := none
  lossFlag : Bool := false
  queuedWrites : Nat := 0
  openSlots : Nat := 0
  deriving DecidableEq, Repr

/-! ### The walker (Sections 3.3 and 3.4) -/

/-- The working state of a walk (R64, R65). -/
structure Walk where
  engine : EngineId
  listAddress : Addr
  entryCount : Nat
  listTag : Byte
  stride : Nat
  /-- the entry index i of R64 to R66 -/
  index : Nat
  /-- the running offset o -/
  offset : Nat
  startIndex : Nat
  deriving DecidableEq, Repr

/-- A walk request (Section 3.3): QUEUED when `walk` is absent, WALKING when it is present. -/
structure WalkRequest where
  aperture : ApId
  generation : Gen
  target : Nat
  walk : Option Walk := none
  waiters : List (OwnerRef × Nat)
  settlingMark : Bool := false
  /-- MODEL FIELD: the walk was running at a fault of its aperture, and its result is dropped (R21; log entry 20) -/
  dropped : Bool := false
  deriving DecidableEq, Repr

/-- An unqueued piece (R61). -/
structure Unqueued where
  owner : OwnerRef
  piece : Nat
  aperture : ApId
  generation : Gen
  offset : Nat
  deriving DecidableEq, Repr

/-! ### The validation engine (Chapter 2) -/

/-- What a job is for (Section 2.1). -/
inductive Purpose where
  | load | rebind
  deriving DecidableEq, Repr

/-- A validation job (Section 2.1): RUNNING or WAITING. -/
structure Job where
  aperture : ApId
  purpose : Purpose
  list : ListRef
  running : Bool
  deriving DecidableEq, Repr

/-- A recorded line failure (R32). -/
structure LineFailure where
  line : Nat
  cause : MemCause
  tag : TagId
  deriving DecidableEq, Repr

/-- The engine's working record and build buffer for the running job (R28). Lines are counted from the list's first. -/
structure Validation where
  stride : Nat
  nextIssue : Nat
  nextProcess : Nat
  unprocessed : Nat
  held : Option (Nat × List Byte)
  failure : Option LineFailure
  nextEntry : Nat
  offset : Nat
  build : Checkpoints
  deriving DecidableEq, Repr

/-! ### The memory port (Chapter 8) -/

/-- The three tag classes (R139). -/
inductive TagClass where
  | walk | validation | data
  deriving DecidableEq, Repr

/-- The two kinds of memory operation (R138). -/
inductive MemKind where
  | mread | mwrite
  deriving DecidableEq, Repr

/-- The report fields of an operation, kept by its tag after a timeout (R140). -/
structure ReportFields where
  requester : Option ReqId := none
  sequence : Option Seq := none
  address : Option Addr := none
  aperture : Option ApId := none
  generation : Option Gen := none
  windowOffset : Option Nat := none
  extentIndex : Option Nat := none
  deriving DecidableEq, Repr

/-- An operation record (R140). The owner is absent once it has gone (R152). -/
structure Op where
  cls : TagClass
  owner : Option OpName
  kind : MemKind
  address : Addr
  length : Nat
  data : List Byte := []
  retries : Nat := 0
  timer : Nat := 0
  cancelled : Bool := false
  fields : ReportFields := {}
  deriving DecidableEq, Repr

/-- The state of a tag (Section 8.2). -/
inductive TagState where
  | free
  | outstanding (op : Op)
  | quarantined (fields : ReportFields)
  deriving DecidableEq, Repr

/-- An operation that holds no tag: in BACKOFF, or, its backoff ended, waiting for a tag (R145, R146). -/
structure Parked where
  op : Op
  waiting : Bool
  deriving DecidableEq, Repr

/-- The arbiter's recorded kind (R142). -/
inductive GrantKind where
  | write | read
  deriving DecidableEq, Repr

/-- The four settings of R153; the defaults are the values after either reset. -/
structure Settings where
  retryBudget : Nat := 15
  responseLimit : Nat := 64
  discardInterval : Nat := 32
  attention : Bool := false
  deriving DecidableEq, Repr

/-! ### The management port (Chapter 10) -/

/-- The answers of R168. -/
inductive Answer where
  | ok | busy | badArgument | badState | overlap | badFrame | empty | unknownCommand
  deriving DecidableEq, Repr

/-- The pending response (R167): answer, command code of the frame answered, result bytes. -/
structure Response where
  answer : Answer
  command : Byte
  results : List Byte := []
  deriving DecidableEq, Repr

/-! ### What the ports drive -/

/-- The refusal reasons (R74). -/
inductive RefusalReason where
  | malformed | disabled | outside | notPermitted | beyondMap | closing | faulted | failed | lost
  deriving DecidableEq, Repr

/-- The responses of the initiator port (R74). -/
inductive BusCode where
  | taken | data | done | retry | refused (why : RefusalReason)
  deriving DecidableEq, Repr

/-- One response on the initiator bus: code and reason, read data lanes and poison indicator (R73, R74). R73 gives the
poison indicator for DATA alone; with every other response it is clear (DESIGN CHOICE, log entry 19, unsafe). -/
structure BusResponse where
  code : BusCode
  lanes : Lanes := 0
  poison : Bool := false
  deriving DecidableEq, Repr

/-- One operation driven on the memory port; an MWRITE's bytes in address order (R138), each on the lane that
`MemIssue.lane` gives it. -/
structure MemIssue where
  tag : TagId
  kind : MemKind
  address : Addr
  length : Nat
  data : List Byte
  deriving DecidableEq, Repr

/-- What the three ports drove in the latest event: the response to the presentation, the operations issued, in order,
and the bytes on MGT_DO. -/
structure Outputs where
  bus : Option BusResponse := none
  mem : List MemIssue := []
  mgt : List Byte := []
  deriving DecidableEq, Repr

/-! ### The whole -/

/-- The state of the machine. The defaults are the values after a reset. -/
structure State where
  /-- the commands that wait, first in, first out -/
  pending : List Instr := []
  /-- the RESETn input is held low (R175) -/
  resetLow : Bool := false
  /-- the tick counter (R148) -/
  tickCounter : Nat := 0
  apertures : Vector Aperture 16 := Vector.replicate 16 {}
  checkpoints : Vector Checkpoints 16 := Vector.replicate 16 (Vector.replicate 32 none)
  jobs : List Job := []
  validation : Option Validation := none
  cache : Vector CacheEntry 32 := Vector.ofFn fun i => { rank := i.val }
  missQueue : List WalkRequest := []
  unqueued : List Unqueued := []
  postQueue : List PostEntry := []
  slots : Vector (Option Slot) 8 := Vector.replicate 8 none
  requesters : Vector Requester 16 := Vector.replicate 16 {}
  tags : Vector TagState 16 := Vector.replicate 16 .free
  parked : List Parked := []
  lastGrant : GrantKind := .read
  settings : Settings := {}
  reports : List Report := []
  dropped : Nat := 0
  quiescing : Bool := false
  response : Option Response := none
  /-- what the ports drove in the latest event (DESIGN CHOICE, log entry 13, safe) -/
  out : Outputs := {}
  /-- MODEL FIELD: the age given to the next owner created (R54; DESIGN CHOICE, log entry 16, safe) -/
  nextAge : Nat := 0
  /-- MODEL FIELD: how many free values have been read (DESIGN CHOICE, log entry 2, safe) -/
  choices : Nat := 0
  deriving DecidableEq, Repr

/-- The machine right after a hardware reset, RESETn released, with no command waiting (DESIGN CHOICE, log entry 12; R1, R26, R41, R46, R47, R59,
R89, R109, R127, R139, R153, R155, R156, R164, R167, R175). -/
def State.reset : State := {}

/-- No event of the spec stops the block, so there is no fault: every outcome of a command is a next state, an answer,
a refusal of the bus or a report. -/
inductive Fault where
  deriving DecidableEq, Repr

/-- Why a command has no meaning here. -/
inductive Refusal where
  /-- Raised by an arm of `exec` that is not modelled yet (none is). Safe: the model stops. -/
  | notModelled (mnemonic : String)
  deriving DecidableEq, Repr

/-! ### Accessors -/

/-- The record of an aperture. -/
def State.ap (s : State) (k : ApId) : Aperture := s.apertures[k.val]

/-- The checkpoint places of an aperture. -/
def State.places (s : State) (k : ApId) : Checkpoints := s.checkpoints[k.val]

/-- The record of a requester. -/
def State.req (s : State) (r : ReqId) : Requester := s.requesters[r.val]

/-- A slot, absent when EMPTY. -/
def State.slot (s : State) (n : SlotId) : Option Slot := s.slots[n.val]

/-- A tag. -/
def State.tag (s : State) (t : TagId) : TagState := s.tags[t.val]

/-- An extent cache entry. -/
def State.cached (s : State) (i : Fin 32) : CacheEntry := s.cache[i.val]

end Sys2Proof.Machine
end

