-- ==== Sys2Proof/Machine/Operands.lean ====
section
/-! DEFINITION. Every operand form: extent entries and their checks (R7, R8, R176), list geometry (R29, R30, R65), the
argument bytes of the management commands (R177), and the code numbers of the ports (R74, R138). -/

namespace Sys2Proof.Machine

/-! ### Extent entries -/

/-- An extent entry as its 16 bytes spell it (R176). -/
structure RawEntry where
  target : Addr
  units : Nat
  kindCode : Byte
  tag : Byte
  valid : Bool
  deriving DecidableEq, Repr

/-- The entry in 16 bytes of list memory (R176). -/
def decodeEntry (bs : List Byte) : RawEntry where
  target := BitVec.ofNat 40 (field bs 0 5)
  units := field bs 5 3
  kindCode := byteAt bs 8
  tag := byteAt bs 9
  valid := (byteAt bs 10).getLsbD 0

/-- The kind of an entry; codes 4 to 255 are none (R176). -/
def kindOfCode (c : Byte) : Option ExtentKind :=
  if c = 0 then some .map
  else if c = 1 then some .zero
  else if c = 2 then some .rom
  else if c = 3 then some .guard
  else none

/-- The kind of an entry that has passed R8. -/
def RawEntry.kind (e : RawEntry) : ExtentKind := (kindOfCode e.kindCode).getD .map

/-- The entry's length in bytes (R7). -/
def RawEntry.bytes (e : RawEntry) : Nat := e.units * 16

/-- Whether the kind uses its target (R8, R9: MAP and ROM). -/
def ExtentKind.usesTarget : ExtentKind → Bool
  | .map => true
  | .rom => true
  | .zero => false
  | .guard => false

/-- The checks of R8, in its order: the first condition that holds. -/
def checkEntry (listTag : Byte) (e : RawEntry) : Option BadEntry :=
  if !e.valid then some .notValid
  else if e.target.toNat % 16 ≠ 0 then some .misaligned
  else if e.units = 0 then some .zeroLength
  else
    match kindOfCode e.kindCode with
    | none => some .badKind
    | some k =>
      if e.tag ≠ listTag then some .tagMismatch
      else if k.usesTarget && decide (2 ^ 40 < e.target.toNat + e.bytes) then some .targetOverflow
      else none

/-- The first `n` 16-byte entries of a line's bytes. -/
def entriesOf (n : Nat) (bs : List Byte) : List RawEntry :=
  (List.range n).map fun j => decodeEntry ((bs.drop (16 * j)).take 16)

/-! ### List geometry -/

/-- The address of entry `i`: list address plus 16 times i (Section 1.2). -/
def entryAddress (list : Addr) (i : Nat) : Addr := BitVec.ofNat 40 (list.toNat + 16 * i)

/-- How many entries a read at entry `i` covers: entry i and the list's later entries in the same line (R65). -/
def entriesInLine (list : Addr) (count i : Nat) : Nat :=
  min (count - i) ((64 - (list.toNat + 16 * i) % 64) / 16)

/-- The number of lines that hold a list (R30). -/
def lineCount (list : Addr) (count : Nat) : Nat :=
  (list.toNat + 16 * (count - 1)) / 64 - list.toNat / 64 + 1

/-- The line that holds entry `i`, lines counted from the list's first (Section 0.6, R30). -/
def lineOfEntry (list : Addr) (i : Nat) : Nat := (list.toNat + 16 * i) / 64 - list.toNat / 64

/-- The list's first entry in its line `k`, lines counted from the first (R30). -/
def lineFirst (list : Addr) (k : Nat) : Nat :=
  if k = 0 then 0 else (64 * (list.toNat / 64 + k) - list.toNat) / 16

/-- The stride of a list: the smallest power of two from 1 to 128 whose 32-fold is at least the count (R29). -/
def strideOf (count : Nat) : Nat :=
  ([1, 2, 4, 8, 16, 32, 64, 128].find? fun s => decide (count ≤ 32 * s)).getD 128

/-- The list checks shared by LOAD and REBIND (R170 step 3, R171 step 3). -/
def listInRange (l : ListRef) : Bool :=
  decide (l.address.toNat % 16 = 0) && decide (1 ≤ l.count) && decide (l.count ≤ 4096) &&
    decide (l.address.toNat + 16 * l.count ≤ 2 ^ 40)

/-! ### Requests (R73, R77) -/

/-- A READ or WRITE that R77 refuses: length 0, over 64, or across a line. -/
def malformed (a : Addr) (len : Nat) : Bool :=
  len == 0 || decide (64 < len) || decide (64 < linePos a + len)

/-- Two byte ranges overlap: each begins before the other ends (R92). -/
def overlaps (a : Addr) (la : Nat) (b : Addr) (lb : Nat) : Bool :=
  decide (a.toNat < b.toNat + lb) && decide (b.toNat < a.toNat + la)

/-! ### Arguments of the management commands (R177) -/

/-- An aperture or requester number carried in a byte: absent above 15. -/
def smallId (b : Byte) : Option (Fin 16) :=
  if h : b.toNat < 16 then some ⟨b.toNat, h⟩ else none

/-- The arguments of LOAD after the aperture byte (R177). -/
structure LoadArgs where
  base : Addr
  pages : Nat
  list : ListRef
  readAllowed : Bool
  writeAllowed : Bool
  mask : BitVec 16
  deriving DecidableEq, Repr

/-- The arguments of LOAD (R177). -/
def loadArgs (bs : List Byte) : LoadArgs where
  base := BitVec.ofNat 40 (field bs 1 5)
  pages := field bs 6 3
  list := { address := BitVec.ofNat 40 (field bs 9 5), count := field bs 14 2, tag := byteAt bs 16 }
  readAllowed := (byteAt bs 17).getLsbD 0
  writeAllowed := (byteAt bs 17).getLsbD 1
  mask := BitVec.ofNat 16 (field bs 18 2)

/-- The window size in bytes (R170). -/
def LoadArgs.size (l : LoadArgs) : Nat := 4096 * l.pages

/-- The argument checks of LOAD (R170 step 3). -/
def LoadArgs.inRange (l : LoadArgs) : Bool :=
  decide (l.base.toNat % 4096 = 0) && decide (1 ≤ l.pages) && decide (l.pages ≤ 1048576) &&
    decide (l.base.toNat + l.size ≤ 2 ^ 40) && listInRange l.list

/-- The list arguments of REBIND (R177). -/
def rebindArgs (bs : List Byte) : ListRef where
  address := BitVec.ofNat 40 (field bs 1 5)
  count := field bs 6 2
  tag := byteAt bs 8

/-- The settings carried by SET_GLOBAL, absent when an argument is out of range (R169, R177). -/
def globalArgs (bs : List Byte) : Option Settings :=
  let budget := (byteAt bs 0).toNat
  let limit := (byteAt bs 1).toNat
  let interval := (byteAt bs 2).toNat
  let attention := (byteAt bs 3).toNat
  if 63 < budget ∨ limit = 0 ∨ interval = 0 ∨ 1 < attention then none
  else some { retryBudget := budget, responseLimit := limit, discardInterval := interval, attention := attention == 1 }

/-- The read failure mode a code names (R129, R177). -/
def modeOfCode (b : Byte) : Option ReadFailureMode :=
  if b = 0 then some .refuse else if b = 1 then some .ones else none

/-! ### Codes on the ports -/

/-- The kinds of a request (R72). -/
inductive RequestKind where
  | read | write | sync
  deriving DecidableEq, Repr

/-- The code of a kind on the bus (R72). -/
def RequestKind.code : RequestKind → BitVec 2
  | .read => 0
  | .write => 1
  | .sync => 2

/-- The kind that the bus's kind field names; code 3 is unassigned (R72). -/
def requestKind (c : BitVec 2) : Option RequestKind :=
  if c = 0 then some .read
  else if c = 1 then some .write
  else if c = 2 then some .sync
  else none

/-- The command that a presentation's fields spell (R72): for a SYNC, and for the unassigned kind, the address, length
and data lines are not examined (R72, R77). -/
def presentation (kind : BitVec 2) (r : ReqId) (a : Addr) (len : BitVec 7) (lanes : Lanes) (en : BitVec 64) : Instr :=
  match requestKind kind with
  | some .read => .read r a len
  | some .write => .write r a len lanes en
  | some .sync => .sync r
  | none => .unassignedKind r

/-- The command that a memory response's fields spell (R138): 0 is OK, 1 is BUSY, and every other code is taken as
ERROR. -/
def memoryResponse (code : Nat) (t : TagId) (lanes : Lanes) : Instr :=
  if code = 0 then .responseOk t lanes
  else if code = 1 then .responseBusy t
  else .responseError t code

/-- The byte that an MWRITE drives on lane `n`: the byte of its data whose place in its line that is (R138, `byteLane`). What
the other lanes carry is not stated (log entry 13). -/
def MemIssue.lane (m : MemIssue) (n : Nat) : Option Byte :=
  if m.kind = .mwrite ∧ n < 64 then m.data[(n + 64 - linePos m.address) % 64]? else none

/-- The response code (R74). -/
def BusCode.code : BusCode → Nat
  | .taken => 0
  | .data => 1
  | .done => 2
  | .retry => 3
  | .refused _ => 4

/-- The number of a refusal reason (R74). -/
def RefusalReason.code : RefusalReason → Nat
  | .malformed => 1
  | .disabled => 2
  | .outside => 3
  | .notPermitted => 4
  | .beyondMap => 5
  | .closing => 6
  | .faulted => 7
  | .failed => 8
  | .lost => 9

/-- The refusal reason lines: the reason with REFUSED, 0 with every other response (R74). -/
def BusCode.reason : BusCode → Nat
  | .refused why => why.code
  | _ => 0

/-- The operation kind on the memory port (R138). -/
def MemKind.code : MemKind → Nat
  | .mread => 0
  | .mwrite => 1

/-- The cause a memory failure gives (R98, R117). -/
def MemCause.toCause : MemCause → Cause
  | .memoryError => .memoryError
  | .retryExhausted => .retryExhausted
  | .responseTimeout => .responseTimeout

end Sys2Proof.Machine
end

