-- ==== Sys2Proof/Machine/Ops.lean ====
section
/-! DEFINITION. The named operations over the records: one home for each write of a record, the report queue's post
(R158, R159), the counts of the aperture and requester tables (R5, R6, R17, R86), and the aperture's entry to FREE
(R13, R23, R24). -/

namespace Sys2Proof.Machine

/-! ### Writing one record -/

/-- Replace an aperture record. -/
def setAp (k : ApId) (a : Aperture) (s : State) : State :=
  { s with apertures := s.apertures.set k.val a k.isLt }

/-- Change an aperture record. -/
def updAp (k : ApId) (f : Aperture → Aperture) (s : State) : State := setAp k (f (s.ap k)) s

/-- Replace an aperture's checkpoint places. -/
def setPlaces (k : ApId) (c : Checkpoints) (s : State) : State :=
  { s with checkpoints := s.checkpoints.set k.val c k.isLt }

/-- Replace a requester record. -/
def setReq (r : ReqId) (q : Requester) (s : State) : State :=
  { s with requesters := s.requesters.set r.val q r.isLt }

/-- Change a requester record. -/
def updReq (r : ReqId) (f : Requester → Requester) (s : State) : State := setReq r (f (s.req r)) s

/-- Replace a slot (absent: EMPTY). -/
def setSlot (n : SlotId) (x : Option Slot) (s : State) : State :=
  { s with slots := s.slots.set n.val x n.isLt }

/-- Change an occupied slot. -/
def updSlot (n : SlotId) (f : Slot → Slot) (s : State) : State := setSlot n ((s.slot n).map f) s

/-- Replace a tag's state. -/
def setTag (t : TagId) (x : TagState) (s : State) : State :=
  { s with tags := s.tags.set t.val x t.isLt }

/-- Replace the post queue. -/
def setPostQueue (q : List PostEntry) (s : State) : State := { s with postQueue := q }

/-- Whether a post entry is the one named. -/
def PostEntry.named (e : PostEntry) (r : ReqId) (q : Seq) : Bool := e.core.requester == r && e.sequence == q

/-- The post entry named by requester and sequence. -/
def findEntry (r : ReqId) (q : Seq) (s : State) : Option PostEntry := s.postQueue.find? (·.named r q)

/-- Change the post entry named by requester and sequence. -/
def updEntry (r : ReqId) (q : Seq) (f : PostEntry → PostEntry) (s : State) : State :=
  setPostQueue (s.postQueue.map fun e => if e.named r q then f e else e) s

/-- What a post entry and a slot have in common. -/
def ownerCore (o : OwnerRef) (s : State) : Option OwnerCore :=
  match o with
  | .entry r q => (findEntry r q s).map (·.core)
  | .slot n => (s.slot n).map (·.core)

/-- Change the common part of an owner. -/
def updCore (o : OwnerRef) (f : OwnerCore → OwnerCore) (s : State) : State :=
  match o with
  | .entry r q => updEntry r q (fun e => { e with core := f e.core }) s
  | .slot n => updSlot n (fun c => { c with core := f c.core }) s

/-- Change one piece of an owner, by its piece index. -/
def updPiece (o : OwnerRef) (i : Nat) (f : Piece → Piece) (s : State) : State :=
  updCore o (fun c => { c with pieces := c.pieces.map fun p => if p.index = i then f p else p }) s

/-- One piece of an owner. -/
def ownerPiece (o : OwnerRef) (i : Nat) (s : State) : Option Piece :=
  (ownerCore o s).bind fun c => c.pieces.find? (·.index == i)

/-! ### What the ports drive -/

/-- A new event begins: nothing has been driven in it yet. -/
def beginEvent (s : State) : State := { s with out := {} }

/-- The response to the presentation being handled (R74). -/
def respond (r : BusResponse) (s : State) : State := { s with out := { s.out with bus := some r } }

/-! ### Reports -/

/-- Post one record: it joins the tail when fewer than 16 are held, else the dropped count rises, stopping at 255
(R158, R159). -/
def post (p : Report) (s : State) : State :=
  if s.reports.length < 16 then { s with reports := s.reports ++ [p] }
  else { s with dropped := min 255 (s.dropped + 1) }

/-! ### Counts -/

/-- An aperture's fault count rises by one, stopping at 255 (R6). Pass-through owners have no aperture. -/
def addFault (p : Option Place) (s : State) : State :=
  match p with
  | none => s
  | some x => updAp x.aperture (fun a => { a with faultCount := min 255 (a.faultCount + 1) }) s

/-- An aperture's in-flight count rises by one when an owner is attributed to it (R5). -/
def raiseInFlight (p : Option Place) (s : State) : State :=
  match p with
  | none => s
  | some x => updAp x.aperture (fun a => { a with inFlight := a.inFlight + 1 }) s

/-- An aperture's in-flight count falls by one when an attributed owner ends (R5). -/
def lowerInFlight (p : Option Place) (s : State) : State :=
  match p with
  | none => s
  | some x => updAp x.aperture (fun a => { a with inFlight := a.inFlight - 1 }) s

/-- A requester's refused count rises by one, stopping at 65,535 (R86). -/
def countRefusal (r : ReqId) (s : State) : State :=
  updReq r (fun q => { q with refusedCount := min 65535 (q.refusedCount + 1) }) s

/-! ### The extent cache's invalidation (R52) -/

/-- Make invalid every cache entry that a test picks; ranks stay (R49, R52). -/
def invalidateWhere (p : CacheEntry → Bool) (s : State) : State :=
  { s with cache := s.cache.map fun e => if p e then { e with valid := false } else e }

/-- Make invalid every cache entry of one aperture (R52). -/
def invalidateAp (k : ApId) (s : State) : State := invalidateWhere (fun e => e.aperture == k) s

/-! ### The end of settling and of draining -/

/-- A walk of the aperture is running: a WALKING request names it (R23). -/
def walkRunning (k : ApId) (s : State) : Bool := s.missQueue.any fun w => w.walk.isSome && w.aperture == k

/-- The record of an aperture that enters FREE: the reset values, generation and fault count kept (Section 1.1). -/
def Aperture.freed (a : Aperture) : Aperture := { generation := a.generation, faultCount := a.faultCount }

/-- An aperture enters FREE: its window is released and its checkpoint places become invalid (R41, R13, R23, R24). -/
def enterFree (k : ApId) (s : State) : State :=
  setPlaces k (Vector.replicate 32 none) (updAp k Aperture.freed s)

/-- The condition of R23: DRAINING, in-flight count 0, no walk running. -/
def drained (k : ApId) (s : State) : Bool :=
  (s.ap k).state == .draining && (s.ap k).inFlight == 0 && !walkRunning k s

/-- The DRAINING test of R23: when its condition holds the aperture goes to FREE and RETIRE_DONE is posted with the
final generation. -/
def drainTest (k : ApId) (s : State) : State :=
  if drained k s then
    post { kind := .retireDone, aperture := some k, generation := some (s.ap k).generation }
      (enterFree k (invalidateAp k s))
  else s

/-- The condition of R17: SETTLING with settling count 0. -/
def settled (k : ApId) (s : State) : Bool :=
  (s.ap k).state == .rebinding .settling && (s.ap k).settling == 0

/-- The end of settling (R17): the aperture goes to ACTIVE and REBIND_DONE is posted with the current generation. -/
def settleTest (k : ApId) (s : State) : State :=
  if settled k s then
    post { kind := .rebindDone, aperture := some k, generation := some (s.ap k).generation }
      (updAp k (fun a => { a with state := .active }) s)
  else s

/-- A marked item ends: the settling count falls by one and the end of settling is tested (R17). -/
def uncount (k : ApId) (s : State) : State :=
  settleTest k (updAp k (fun a => { a with settling := a.settling - 1 }) s)

/-- An owner with a settling mark is uncounted from its aperture (R17). -/
def uncountIf (mark : Bool) (p : Option Place) (s : State) : State :=
  match p with
  | some x => if mark then uncount x.aperture s else s
  | none => s

/-- The DRAINING test for an owner's aperture (R23). -/
def drainTestOf (p : Option Place) (s : State) : State :=
  match p with
  | some x => drainTest x.aperture s
  | none => s

/-! ### Owner age (R54) -/

/-- The age of an owner (0 when it does not exist). -/
def ageOf (o : OwnerRef) (s : State) : Nat := ((ownerCore o s).map (·.age)).getD 0

/-- Insert by age, oldest first. -/
def insertByAge (age : α → Nat) (x : α) : List α → List α
  | [] => [x]
  | y :: ys => if age x < age y then x :: y :: ys else y :: insertByAge age x ys

/-- Sort by age, oldest first. -/
def sortByAge (age : α → Nat) (xs : List α) : List α := xs.foldl (fun acc x => insertByAge age x acc) []

/-- The reference to a post entry. -/
def PostEntry.ref (e : PostEntry) : OwnerRef := .entry e.core.requester e.sequence

/-- The occupied slots. -/
def occupied (s : State) : List SlotId := (List.finRange 8).filter fun n => (s.slot n).isSome

/-- Every owner, oldest first: post entries and slots alike (R54). -/
def owners (s : State) : List OwnerRef :=
  sortByAge (ageOf · s) (s.postQueue.map PostEntry.ref ++ (occupied s).map OwnerRef.slot)

end Sys2Proof.Machine
end

