-- ==== Sys2Proof/Machine/Cache.lean ====
section
/-! DEFINITION. The extent cache (Section 3.1): lookup (R48), rank (R49), installation (R50, R51), INVALIDATE (R53). -/

namespace Sys2Proof.Machine

/-- The entry's window range holds an offset. -/
def CacheEntry.covers (e : CacheEntry) (off : Nat) : Bool :=
  decide (e.start ≤ off) && decide (off < e.start + e.length)

/-- The entry answers a lookup: valid, of that aperture and generation, its range holding the offset (R48). -/
def CacheEntry.hits (e : CacheEntry) (k : ApId) (g : Gen) (off : Nat) : Bool :=
  e.valid && e.aperture == k && e.generation == g && e.covers off

/-- Of a hit so far and a further one, the more recent reading (R51). -/
def laterReading (s : State) (best : Option (Fin 32)) (i : Fin 32) : Option (Fin 32) :=
  match best with
  | none => some i
  | some j => if (s.cached j).reading < (s.cached i).reading then some i else some j

/-- A lookup of one window offset of an aperture at a generation (R48). R47 and R48 say that at most one entry answers; a
refresh that finds a changed range (R51: "The installation then ends") can leave two that hold one offset. Then the more
recent reading answers, whatever the ranks are (R49), as "The cache keeps the most recent reading" and the end of R51 have it
(DEDUCED, log entry 18, unsafe). -/
def lookup (k : ApId) (g : Gen) (off : Nat) (s : State) : Option (Fin 32) :=
  ((List.finRange 32).filter fun i => (s.cached i).hits k g off).foldl (laterReading s) none

/-- The ranks after one entry becomes most recently used: it takes rank 0, and those that ranked below its former rank
move down by one (R49). -/
def touchCache (i : Fin 32) (v : Vector CacheEntry 32) : Vector CacheEntry 32 :=
  Vector.ofFn fun j =>
    let e := v[j.val]
    if j = i then { e with rank := 0 }
    else if e.rank < (v[i.val]).rank then { e with rank := e.rank + 1 } else e

/-- An entry becomes most recently used (R49). -/
def touch (i : Fin 32) (s : State) : State := { s with cache := touchCache i s.cache }

/-- Replace one cache entry. -/
def setCached (i : Fin 32) (e : CacheEntry) (s : State) : State :=
  { s with cache := s.cache.set i.val e i.isLt }

/-- An extent that a walk has found (R50). -/
structure Found where
  aperture : ApId
  generation : Gen
  index : Nat
  start : Nat
  length : Nat
  target : Addr
  kind : ExtentKind
  deriving DecidableEq, Repr

/-- The cache entry that holds a found extent, at a rank and as a reading. -/
def Found.entry (x : Found) (rank reading : Nat) : CacheEntry where
  valid := true
  aperture := x.aperture
  generation := x.generation
  extentIndex := x.index
  start := x.start
  length := x.length
  target := x.target
  kind := x.kind
  rank := rank
  reading := reading

/-- A valid entry of the found extent's aperture and generation. -/
def Found.sameList (x : Found) (e : CacheEntry) : Bool :=
  e.valid && e.aperture == x.aperture && e.generation == x.generation

/-- The ranges of an entry and a found extent overlap. -/
def Found.meets (x : Found) (e : CacheEntry) : Bool :=
  decide (e.start < x.start + x.length) && decide (x.start < e.start + e.length)

/-- The later of two entries by rank. -/
def higherRank (s : State) (a b : Fin 32) : Fin 32 :=
  if (s.cached a).rank < (s.cached b).rank then b else a

/-- The invalid entry with the highest rank, when one exists (R50). -/
def invalidVictim (s : State) : Option (Fin 32) :=
  match (List.finRange 32).filter fun i => !(s.cached i).valid with
  | [] => none
  | i :: is => some (is.foldl (higherRank s) i)

/-- The entry an installation takes: the invalid entry of highest rank, else the least recently used one (R50). -/
def victim (s : State) : Fin 32 :=
  match invalidVictim s with
  | some i => i
  | none => (List.finRange 32).foldl (higherRank s) 0

/-- The place of the next reading: after every one before it (log entry 18). -/
def nextReading (s : State) : Nat := (List.finRange 32).foldl (fun n i => max n (s.cached i).reading) 0 + 1

/-- Put a found extent in an entry, as the most recent reading and most recently used (R49, R50, R51). -/
def placeFound (x : Found) (i : Fin 32) (s : State) : State :=
  touch i (setCached i (x.entry (s.cached i).rank (nextReading s)) s)

/-- Install a current find (R50, R51). An entry with the same extent index is refreshed and no other is touched, even where
its range now meets another entry's (log entry 18). -/
def install (x : Found) (s : State) : State :=
  match (List.finRange 32).find? fun i => x.sameList (s.cached i) && (s.cached i).extentIndex == x.index with
  | some i => placeFound x i s
  | none =>
    let s := invalidateWhere (fun e => x.sameList e && x.meets e) s
    placeFound x (victim s) s

/-- INVALIDATE of one aperture (R53): its cache entries invalid, its resume point absent. -/
def forget (k : ApId) (s : State) : State :=
  updAp k (fun a => { a with resume := none }) (invalidateAp k s)

/-- INVALIDATE of all apertures (R53). -/
def forgetAll (s : State) : State :=
  { invalidateWhere (fun _ => true) s with apertures := s.apertures.map fun a => { a with resume := none } }

end Sys2Proof.Machine
end

