-- ==== Sys2Proof/Machine/Flags.lean ====
section
/-! DEFINITION. Every flag and condition the spec computes from the records: the ATTN_n line (R162), window claims (R2,
R80), the head of a requester (R89), eligibility and leaving (R95, R99), tag counts (R139, R169), the soft reset's
condition (R174). -/

namespace Sys2Proof.Machine

/-! ### ATTN_n -/

/-- The bridge drives ATTN_n low: attention enabled and a record held, and RESETn not low (R162). -/
def State.attnLow (s : State) : Bool := s.settings.attention && !s.reports.isEmpty && !s.resetLow

/-! ### Windows -/

/-- An aperture claims its window in every state but FREE (R2). -/
def Aperture.claims (a : Aperture) : Bool := !(a.state == .free)

/-- The window holds an address: from base up to, not including, base plus size (R2). -/
def Aperture.holds (a : Aperture) (x : Addr) : Bool :=
  decide (a.windowBase.toNat ≤ x.toNat) && decide (x.toNat < a.windowBase.toNat + a.windowSize)

/-- The aperture whose claimed window holds an address (R80). -/
def claimant (x : Addr) (s : State) : Option ApId :=
  (List.finRange 16).find? fun k => (s.ap k).claims && (s.ap k).holds x

/-- The window of an aperture shares an address with a given range (R2). -/
def Aperture.meets (a : Aperture) (base : Addr) (size : Nat) : Bool :=
  decide (a.windowBase.toNat < base.toNat + size) && decide (base.toNat < a.windowBase.toNat + a.windowSize)

/-- Some claimed window shares an address with a given range (R170 step 4). -/
def windowTaken (base : Addr) (size : Nat) (s : State) : Bool :=
  (List.finRange 16).any fun k => (s.ap k).claims && (s.ap k).meets base size

/-- An aperture whose owners translate through its list: ACTIVE, REBINDING or DRAINING (R48, R67). -/
def ApState.translates : ApState → Bool
  | .active => true
  | .rebinding _ => true
  | .draining => true
  | _ => false

/-- ACTIVE or REBINDING (R18, R69, R80). -/
def ApState.serves : ApState → Bool
  | .active => true
  | .rebinding _ => true
  | _ => false

/-! ### Post entries -/

/-- A requester's head: its oldest entry in the post queue (R89). -/
def head (r : ReqId) (s : State) : Option PostEntry := s.postQueue.find? (·.core.requester == r)

/-- A piece has gone to the memory port and not ended. -/
def Piece.isIssued (p : Piece) : Bool := p.state == .issued

/-- Every piece is WRITTEN (R96, R97). -/
def PostEntry.allWritten (e : PostEntry) : Bool := e.core.pieces.all (·.state == .written)

/-- A head entry leaves when DONE, or FAILED with no piece ISSUED (R99). -/
def PostEntry.mayLeave (e : PostEntry) : Bool :=
  e.state == .done || (e.state == .failed && !e.core.pieces.any Piece.isIssued)

/-! ### Slots -/

/-- Every piece is READ (R115, R116). -/
def Slot.allRead (c : Slot) : Bool :=
  c.core.pieces.all fun p => match p.state with | .read _ => true | _ => false

/-- A memory read is left to issue or outstanding (R17, R123). -/
def OwnerCore.readsLeft (c : OwnerCore) : Bool :=
  c.pieces.any fun p => p.kind.usesTarget && (p.state == .pending || p.state == .issued)

/-! ### Tags -/

/-- The class of a tag: 0 and 1 walk, 2 and 3 validation, 4 to 15 data (R139). -/
def tagClass (t : TagId) : TagClass :=
  if t.val < 2 then .walk else if t.val < 4 then .validation else .data

/-- The tag is FREE. -/
def TagState.isFree : TagState → Bool
  | .free => true
  | _ => false

/-- The tag is OUTSTANDING. -/
def TagState.isOutstanding : TagState → Bool
  | .outstanding _ => true
  | _ => false

/-- The tag is QUARANTINED. -/
def TagState.isQuarantined : TagState → Bool
  | .quarantined _ => true
  | _ => false

/-- The tags, in number order. -/
def allTags : List TagId := List.finRange 16

/-- The tags of a class that are OUTSTANDING or QUARANTINED (R139, R169). -/
def tagsInUse (c : TagClass) (s : State) : Nat :=
  (allTags.filter fun t => tagClass t == c && !(s.tag t).isFree).length

/-- The tags QUARANTINED in all (R169). -/
def tagsQuarantined (s : State) : Nat := (allTags.filter fun t => (s.tag t).isQuarantined).length

/-- The lowest-numbered FREE tag of a class (R142; for the validation class
DEDUCED, log entry 6, unsafe). -/
def freeTag (c : TagClass) (s : State) : Option TagId :=
  allTags.find? fun t => tagClass t == c && (s.tag t).isFree

/-! ### The soft reset -/

/-- The condition of R174: quiescing, the post queue empty, no tag OUTSTANDING. -/
def resetDue (s : State) : Bool :=
  s.quiescing && s.postQueue.isEmpty && !(allTags.any fun t => (s.tag t).isOutstanding)

end Sys2Proof.Machine
end

