-- ==== Sys2Proof/Machine/Port.lean ====
section
/-! DEFINITION. The memory port's records (Chapter 8): issuing an operation under a tag (R138, R149), BACKOFF (R145),
cancellation (R152) and LATE_RESPONSE (R150, R151). -/

namespace Sys2Proof.Machine

/-- Issue an operation under a tag: the tag becomes OUTSTANDING, the response timer is loaded with the response limit,
and the operation is driven on the port (R138, R142, R149). -/
def issue (t : TagId) (op : Op) (s : State) : State :=
  let s := setTag t (.outstanding { op with timer := s.settings.responseLimit }) s
  { s with out := { s.out with
      mem := s.out.mem ++ [{ tag := t, kind := op.kind, address := op.address, length := op.length, data := op.data }] } }

/-- An operation goes to BACKOFF: it keeps its record and holds no tag (R145). -/
def park (op : Op) (s : State) : State := { s with parked := s.parked ++ [{ op := op, waiting := false }] }

/-- The operation of an owner that waits for a tag, its backoff ended (R146). -/
def waitingOp (o : OpName) (s : State) : Option Op :=
  (s.parked.find? fun p => p.op.owner == some o && p.waiting).map (·.op)

/-- Take an owner's operation out of BACKOFF or waiting. -/
def unpark (o : OpName) (s : State) : State :=
  { s with parked := s.parked.filter fun p => !(p.op.owner == some o) }

/-- The operation of an owner is OUTSTANDING under some tag. -/
def isOutstanding (o : OpName) (s : State) : Bool :=
  allTags.any fun t => match s.tag t with
    | .outstanding op => op.owner == some o
    | _ => false

/-- Mark an OUTSTANDING operation cancelled when a test picks its owner; `gone` forgets the owner (R152). -/
def TagState.cancel (pick : OpName → Bool) (gone : Bool) : TagState → TagState
  | .outstanding op =>
    if op.owner.elim false pick then
      .outstanding { op with cancelled := true, owner := if gone then none else op.owner }
    else .outstanding op
  | x => x

/-- Cancel the operations whose owner a test picks: those in BACKOFF or waiting end at once, those OUTSTANDING are
flagged and keep their tag and timer (R152). -/
def cancelOps (pick : OpName → Bool) (gone : Bool) (s : State) : State :=
  { s with
    parked := s.parked.filter fun p => !(p.op.owner.elim false pick)
    tags := s.tags.map (TagState.cancel pick gone) }

/-- The pieces of one owner. -/
def pieceOf (o : OwnerRef) : OpName → Bool
  | .piece o' _ => o' == o
  | _ => false

/-- The lines of the validation job. -/
def anyLine : OpName → Bool
  | .line _ => true
  | _ => false

/-- The LATE_RESPONSE of a quarantined tag (R150). -/
def lateReport (t : TagId) (f : ReportFields) : Report where
  kind := .lateResponse
  cause := some .responseTimeout
  requester := f.requester
  aperture := f.aperture
  generation := f.generation
  sequence := f.sequence
  address := f.address
  windowOffset := f.windowOffset
  extentIndex := f.extentIndex
  tag := some t

/-- The LATE_RESPONSE of a stray response (R151). -/
def strayReport (t : TagId) : Report := { kind := .lateResponse, tag := some t }

end Sys2Proof.Machine
end

