-- ==== Sys2Proof/Machine/Owners.lean ====
section
/-! DEFINITION. The life of post entries and read slots apart from translation: reading and readiness (R115, R116),
failure (R98, R117, R118), the settling mark (R17, R123), freeing a slot (R111), and a post entry's eligibility and
leaving (R95, R96, R99 to R102). -/

namespace Sys2Proof.Machine

/-! ### Detaching from the walker -/

/-- Detach an owner from its walk request or the unqueued pieces (R58); a QUEUED request left without waiters is
removed (R62). -/
def detach (o : OwnerRef) (s : State) : State :=
  { s with
    missQueue :=
      (s.missQueue.map fun w => { w with waiters := w.waiters.filter fun x => !(x.1 == o) }).filter
        fun w => w.walk.isSome || !w.waiters.isEmpty
    unqueued := s.unqueued.filter fun u => !(u.owner == o) }

/-! ### Slots -/

/-- Zeros for a ZERO piece, at the entry to READING (R115). -/
def Piece.readZero (p : Piece) : Piece :=
  if p.kind == .zero && p.state == .pending then { p with state := .read (List.replicate p.length 0) } else p

/-- The bytes a piece has read. -/
def Piece.bytes (p : Piece) : List Byte :=
  match p.state with
  | .read bs => bs
  | _ => []

/-- A READING slot whose every piece is READ goes to READY: its data is assembled in address order and its discard
timer is loaded with the discard interval (R116, R119). -/
def becomeReady (n : SlotId) (s : State) : State :=
  match s.slot n with
  | some c =>
    if c.state == .reading && c.allRead then
      setSlot n (some { c with
        state := .ready
        data := c.core.pieces.flatMap Piece.bytes
        timer := some s.settings.discardInterval }) s
    else s
  | none => s

/-- An ORDERED slot with its fence met goes to READING (R115). -/
def startReading (n : SlotId) (s : State) : State :=
  match s.slot n with
  | some c =>
    if c.state == .ordered && c.fenceMet then
      becomeReady n (setSlot n (some { c with
        state := .reading
        core := { c.core with pieces := c.core.pieces.map Piece.readZero } }) s)
    else s
  | none => s

/-- A marked slot with no piece of its own left PENDING or ISSUED is uncounted and its mark cleared (R17, R123). -/
def slotUncount (n : SlotId) (s : State) : State :=
  match s.slot n with
  | some c =>
    if c.core.settlingMark && !c.core.readsLeft then
      uncountIf true c.core.place (setSlot n (some { c with core := { c.core with settlingMark := false } }) s)
    else s
  | none => s

/-- The fence of a slot is met: the field becomes yes and an ORDERED slot goes to READING (R112, R115). -/
def meetFence (n : SlotId) (s : State) : State :=
  startReading n (updSlot n (fun c => { c with fenceMet := true }) s)

/-- A slot waits for its fence, and its requester's completed sequence has come to it (R112). -/
def fenceDue (n : SlotId) (s : State) : Bool :=
  match s.slot n with
  | some c => !c.fenceMet && (s.req c.core.requester).completed == c.fence
  | none => false

/-- Step 5 of R100: the slots of a requester that waited on this leaving (R112). -/
def tellFences (r : ReqId) (s : State) : State :=
  (List.finRange 8).foldl (fun s n =>
    match s.slot n with
    | some c => if c.core.requester == r && fenceDue n s then meetFence n s else s
    | none => s) s

/-- Free a slot (R111): detached, its operations withdrawn or abandoned, EMPTY, the counts lowered, and the aperture
table's two tests made. -/
def freeSlot (n : SlotId) (s : State) : State :=
  match s.slot n with
  | none => s
  | some c =>
    let s := setSlot n none (cancelOps (pieceOf (.slot n)) true (detach (.slot n) s))
    let s := updReq c.core.requester (fun q => { q with openSlots := q.openSlots - 1 }) s
    drainTestOf c.core.place (uncountIf c.core.settlingMark c.core.place (lowerInFlight c.core.place s))

/-- Free several slots, in the order given. -/
def freeSlots (ns : List SlotId) (s : State) : State := ns.foldl (fun s n => freeSlot n s) s

/-! ### Failure -/

/-- What a failure leaves of a piece: PENDING and backed-off pieces are ENDED, a piece with an operation outstanding
stays ISSUED, bytes read are discarded (R98, R117). -/
def Piece.atFailure (outstanding : Bool) (p : Piece) : Piece :=
  match p.state with
  | .pending => { p with state := .ended }
  | .issued => if outstanding then p else { p with state := .ended }
  | .read _ => { p with state := .read [] }
  | _ => p

/-- The generation a report of an owner carries: that of its translation, or of its progress (R102, R118). -/
def OwnerCore.reportGeneration (c : OwnerCore) : Option Gen :=
  match c.generation with
  | some g => some g
  | none => c.progress.map (·.generation)

/-- A failure of an owner with no more detail than its own window offset (R102, R118). -/
def OwnerCore.failureOf (c : OwnerCore) (cause : Cause) : Failure where
  cause := cause
  windowOffset := c.place.map (·.offset)
  generation := c.reportGeneration

/-- The READ_FAILED of a slot (R118). -/
def readFailedReport (c : OwnerCore) (f : Failure) : Report where
  kind := .readFailed
  cause := some f.cause
  sub := f.sub.map SubReason.bad
  requester := some c.requester
  aperture := c.place.map (·.aperture)
  generation := f.generation
  address := some c.address
  windowOffset := f.windowOffset
  extentIndex := f.extentIndex
  tag := f.tag

/-- The common part of an owner that fails. -/
def failCore (o : OwnerRef) (f : Failure) (s : State) : State :=
  cancelOps (pieceOf o) false
    (updCore o (fun c => { c with
      progress := none
      failure := some f
      pieces := c.pieces.map fun p => p.atFailure (isOutstanding (.piece o p.index) s) }) s)

/-- An owner fails (R56, R98, R117). A post entry becomes FAILED and waits to leave; a slot becomes FAILED, posts
READ_FAILED, raises its aperture's fault count, starts its discard timer, and is uncounted when nothing of it is left
outstanding, after the report (DESIGN CHOICE, log entry 11, unsafe). -/
def failOwner (o : OwnerRef) (f : Failure) (s : State) : State :=
  match o with
  | .entry r q => updEntry r q (fun e => { e with state := .failed }) (failCore o f s)
  | .slot n =>
    match s.slot n with
    | none => s
    | some c =>
      let s := updSlot n (fun c => { c with state := .failed, timer := some s.settings.discardInterval }) (failCore o f s)
      slotUncount n (addFault c.core.place (post (readFailedReport c.core f) s))

/-! ### Post entries -/

/-- A ZERO piece completes as written, with no memory operation (R9, R96). -/
def Piece.writeZero (p : Piece) : Piece :=
  if p.kind == .zero && p.state == .pending then { p with state := .written } else p

/-- An entry that becomes eligible: its ZERO pieces become WRITTEN, and with nothing left it is DONE (R96). -/
def PostEntry.eligible (e : PostEntry) : PostEntry :=
  let e := { e with core := { e.core with pieces := e.core.pieces.map Piece.writeZero } }
  if e.allWritten then { e with state := .done } else e

/-- The head of a requester becomes eligible when it is READY (R95, R96). -/
def makeEligible (r : ReqId) (s : State) : State :=
  match head r s with
  | some e => if e.state == .ready then updEntry r e.sequence PostEntry.eligible s else s
  | none => s

/-- The WRITE_LOST of an entry (R102). -/
def writeLostReport (e : PostEntry) (f : Failure) : Report where
  kind := .writeLost
  cause := some f.cause
  sub := f.sub.map SubReason.bad
  requester := some e.core.requester
  aperture := e.core.place.map (·.aperture)
  generation := f.generation
  sequence := some e.sequence
  address := some e.core.address
  windowOffset := f.windowOffset
  extentIndex := f.extentIndex
  tag := f.tag

/-- The mark reached test of a leaving (R132). -/
def Requester.markAt (q : Requester) (seq : Seq) : Requester :=
  match q.mark with
  | some (m, false) => if m = seq then { q with mark := some (m, true) } else q
  | _ => q

/-- Step 4 of R100: a lost write sets its requester's loss flag, raises its aperture's fault count and posts WRITE_LOST
(R101). -/
def recordLoss (e : PostEntry) (s : State) : State :=
  if e.state == .failed then
    let f := e.core.failure.getD (e.core.failureOf .withdrawn)
    post (writeLostReport e f)
      (addFault e.core.place (updReq e.core.requester (fun q => { q with lossFlag := true }) s))
  else s

/-- A post entry leaves (R100): the six steps, in order. -/
def leave (e : PostEntry) (s : State) : State :=
  let r := e.core.requester
  let s := setPostQueue (s.postQueue.filter fun x => !(x.named r e.sequence)) s
  let s := updReq r (fun q =>
    { q.markAt e.sequence with completed := e.sequence, queuedWrites := q.queuedWrites - 1 }) s
  let s := uncountIf e.core.settlingMark e.core.place (lowerInFlight e.core.place s)
  let s := recordLoss e s
  let s := tellFences r s
  drainTestOf e.core.place s

/-- The head of a requester becomes eligible, and leaves if it may (R95, R96, R99). -/
def leaveHead (r : ReqId) (s : State) : State :=
  let s := makeEligible r s
  match head r s with
  | some e => if e.mayLeave then leave e s else s
  | none => s

/-- The cascade of leavings along one requester's entries, within one event (R99). -/
def leaveCascade : Nat → ReqId → State → State
  | 0, _, s => s
  | fuel + 1, r, s =>
    let s := makeEligible r s
    match head r s with
    | some e => if e.mayLeave then leaveCascade fuel r (leave e s) else s
    | none => s

/-- Every leaving of a requester that its head now allows (R99). -/
def leaveAll (r : ReqId) (s : State) : State := leaveCascade s.postQueue.length r s

/-- One owner's turn in a sweep: a post entry that is its requester's head becomes eligible and leaves if it may. -/
def leaveTurn (o : OwnerRef) (s : State) : State :=
  match o with
  | .slot _ => s
  | .entry r q =>
    match head r s with
    | some e => if e.sequence == q then leaveHead r s else s
    | none => s

/-- Act on every owner, oldest first, each followed by its own leaving, so that what an event does to its owners and
the cascades it starts are taken, and their reports offered, in owner age order (R22, R61, R16 step 5). -/
def sweep (act : OwnerRef → State → State) (s : State) : State :=
  (owners s).foldl (fun s o => leaveTurn o (act o s)) s

end Sys2Proof.Machine
end

