-- ==== Sys2Proof/Machine/Walker.lean ====
section
/-! DEFINITION. Translating an owner (Section 3.2): beginning (R54), lookups piece by piece (R55), piece faults (R56), the
offer of a missed piece (R57 to R61); and the start of a walk (R63, R64, R65). -/

namespace Sys2Proof.Machine

/-! ### Offering a missed piece -/

/-- Set what an owner waits on. -/
def setWaiting (o : OwnerRef) (w : Waiting) (s : State) : State :=
  updCore o (fun c => { c with progress := c.progress.map fun p => { p with waiting := w } }) s

/-- Change the first element that a test picks. -/
def updFirst (p : α → Bool) (f : α → α) : List α → List α
  | [] => []
  | x :: xs => if p x then f x :: xs else x :: updFirst p f xs

/-- A walk request serves an offset: the same aperture, generation and 256-byte block (R57). -/
def WalkRequest.serves (w : WalkRequest) (k : ApId) (g : Gen) (off : Nat) : Bool :=
  w.aperture == k && w.generation == g && w.target / 256 == off / 256

/-- Offer a missed piece to the miss queue (R57): it joins a matching request, or a new request is created for it, or
it becomes unqueued. -/
def offer (o : OwnerRef) (piece : Nat) (k : ApId) (g : Gen) (off : Nat) (s : State) : State :=
  if s.missQueue.any (·.serves k g off) then
    setWaiting o .attached { s with
      missQueue := updFirst (·.serves k g off)
        (fun w => { w with waiters := insertByAge (fun x => ageOf x.1 s) (o, piece) w.waiters }) s.missQueue }
  else if s.missQueue.length < 8 then
    setWaiting o .attached { s with
      missQueue := s.missQueue ++ [{ aperture := k, generation := g, target := off, waiters := [(o, piece)] }] }
  else
    setWaiting o .unqueued { s with
      unqueued := insertByAge (fun u => ageOf u.owner s)
        { owner := o, piece := piece, aperture := k, generation := g, offset := off } s.unqueued }

/-! ### Translation -/

/-- The owner is a post entry. -/
def isWrite : OwnerRef → Bool
  | .entry _ _ => true
  | .slot _ => false

/-- An owner fails at translation: it is detached (R58) and its block takes the failure (R56). -/
def failTranslation (o : OwnerRef) (f : Failure) (s : State) : State := failOwner o f (detach o s)

/-- An owner is fully translated (R56): its generation is its progress's, the progress record is set aside, a post
entry goes to READY (R93), and a slot to ORDERED, or on to READING when its fence is met (R114). -/
def finishTranslation (o : OwnerRef) (s : State) : State :=
  let s := updCore o (fun c => { c with generation := c.progress.map (·.generation), progress := none }) s
  match o with
  | .entry r q => updEntry r q (fun e => { e with state := .ready }) s
  | .slot n => startReading n (updSlot n (fun c => { c with state := .ordered }) s)

/-- The target address of a window offset in an extent (R10, R55); a ZERO or GUARD extent gives none. -/
def CacheEntry.targetAt (e : CacheEntry) (off : Nat) : Option Addr :=
  if e.kind.usesTarget then some (BitVec.ofNat 40 (e.target.toNat + (off - e.start))) else none

/-- The piece that a hit fixes (R10, R55): all the bytes up to the end of the owner or of the extent. One memory operation
carries the whole piece (R94, R115), also where the target of a list that R8 passes makes its bytes run on past the end of a
64-byte line, against R138 (DESIGN CHOICE, log entry 17, unsafe). -/
def hitPiece (place : Place) (p : Progress) (e : CacheEntry) : Piece where
  index := p.nextPiece
  offset := p.nextOffset - place.offset
  length := min p.endOffset (e.start + e.length) - p.nextOffset
  extentIndex := some e.extentIndex
  kind := e.kind
  target := e.targetAt p.nextOffset
  generation := some p.generation
  state := .pending

/-- The fault of a piece at its hit: GUARD, or ROM for a write (R9, R56). -/
def pieceFault (write : Bool) (k : ExtentKind) : Option Cause :=
  match k with
  | .guard => some .guardHit
  | .rom => if write then some .romWrite else none
  | .map => none
  | .zero => none

/-- Look up an owner's pieces one after another from its next offset (R55). Each hit moves the next offset on by at
least one byte, so the bytes left bound the loop. -/
def lookupPieces : Nat → OwnerRef → State → State
  | 0, _, s => s
  | fuel + 1, o, s =>
    match ownerCore o s with
    | none => s
    | some c =>
      match c.place, c.progress with
      | some place, some p =>
        let g := (s.ap place.aperture).generation
        match lookup place.aperture g p.nextOffset s with
        | none => offer o p.nextPiece place.aperture p.generation p.nextOffset s
        | some i =>
          let piece := hitPiece place p (s.cached i)
          let s := updCore o (fun c => { c with pieces := c.pieces ++ [piece] }) (touch i s)
          match pieceFault (isWrite o) piece.kind with
          | some cause =>
            failTranslation o { cause := cause, extentIndex := piece.extentIndex,
                                windowOffset := some p.nextOffset, generation := some p.generation } s
          | none =>
            let next := p.nextOffset + piece.length
            if p.endOffset ≤ next then finishTranslation o s
            else
              lookupPieces fuel o
                (updCore o (fun c => { c with
                  progress := some { p with nextPiece := p.nextPiece + 1, nextOffset := next, waiting := .none } }) s)
      | _, _ => s

/-- The owner looks up from its next offset; at most 64 bytes are left (R55, R61). -/
def lookUp (o : OwnerRef) (s : State) : State := lookupPieces 64 o s

/-- The one piece of a pass-through owner (R10): kind MAP, at its own address. -/
def passPiece (c : OwnerCore) : Piece where
  index := 0
  offset := 0
  length := c.length
  extentIndex := none
  kind := .map
  target := some c.address
  generation := none
  state := .pending

/-- The progress record at the beginning of a translation (R54). -/
def startProgress (p : Place) (length : Nat) (g : Gen) : Progress where
  nextPiece := 0
  nextOffset := p.offset
  endOffset := p.offset + length
  generation := g
  waiting := .none

/-- An owner's translation begins, or begins again after a switch (R54); past the mapped length it fails with the
generation under which it has begun (DEDUCED, log entry 10, unsafe). -/
def beginTranslation (o : OwnerRef) (s : State) : State :=
  match ownerCore o s with
  | none => s
  | some c =>
    match c.place with
    | none => finishTranslation o (updCore o (fun c => { c with pieces := [passPiece c], progress := none }) s)
    | some p =>
      let a := s.ap p.aperture
      let s := updCore o (fun c => { c with pieces := [], progress := some (startProgress p c.length a.generation) }) s
      if a.mappedLength < p.offset + c.length then
        failTranslation o { cause := .beyondMap, windowOffset := some p.offset, generation := some a.generation } s
      else lookUp o s

/-! ### Offering again -/

/-- Offer again the unqueued pieces and the owners listed, in owner age order: each looks up first (R61). An owner of
the second list begins its translation anew (R16 step 5). -/
def reofferWith (waiters restart : List OwnerRef) (s : State) : State :=
  let again := s.unqueued.map (·.owner) ++ waiters
  let s := { s with unqueued := [] }
  sweep (fun o s =>
    if restart.contains o then beginTranslation o s
    else if again.contains o then lookUp o s else s) s

/-- The offer of R61 in an event in which a request has left the miss queue. -/
def reoffer (s : State) : State := reofferWith [] [] s

/-- The offer of R61, when a request has left the miss queue since `before`. -/
def reofferIfLeft (before s : State) : State :=
  if s.missQueue.length < before.missQueue.length then reoffer s else s

/-! ### Starting walks -/

/-- The start of a walk from a checkpoint: the largest valid place at or below the target, with its offset (R64). -/
def startCheckpoint (places : Checkpoints) (t : Nat) : Nat × Nat :=
  (List.finRange 32).foldl (fun best k =>
    match places[k.val] with
    | some off => if off ≤ t then (k.val, off) else best
    | none => best) (0, 0)

/-- The starting index and running offset of a walk: from the checkpoint, or from the resume point when that lies in
the same stride's run and at or below the target (R64). -/
def startPoint (a : Aperture) (places : Checkpoints) (t : Nat) : Nat × Nat :=
  let c := startCheckpoint places t
  let base := (c.1 * a.stride, c.2)
  match a.resume with
  | some h => if c.1 * a.stride ≤ h.index ∧ h.index < (c.1 + 1) * a.stride ∧ h.start ≤ t then (h.index, h.start) else base
  | none => base

/-- The working state of a walk at its start (R64). -/
def newWalk (e : EngineId) (w : WalkRequest) (s : State) : Walk :=
  let a := s.ap w.aperture
  let p := startPoint a (s.places w.aperture) w.target
  { engine := e, listAddress := a.listAddress, entryCount := a.entryCount, listTag := a.listTag, stride := a.stride,
    index := p.1, offset := p.2, startIndex := p.1 }

/-- The tag of a walk engine (R63, R139). -/
def engineTag (e : EngineId) : TagId := ⟨e.val, by omega⟩

/-- The read of the line holding the walk's entry i (R65). Its report field is the index of the line's first entry (R140):
of the list's first entry in that 64-byte line, also when the read starts at a later one (DEDUCED, log entry 9, unsafe). -/
def walkOp (w : WalkRequest) (x : Walk) : Op where
  cls := .walk
  owner := some (.walk x.engine)
  kind := .mread
  address := entryAddress x.listAddress x.index
  length := 16 * entriesInLine x.listAddress x.entryCount x.index
  fields := { aperture := some w.aperture, generation := some w.generation
              extentIndex := some (lineFirst x.listAddress (lineOfEntry x.listAddress x.index)) }

/-- A WALKING request on an engine. -/
def WalkRequest.onEngine (e : EngineId) (w : WalkRequest) : Bool :=
  match w.walk with
  | some x => x.engine == e
  | none => false

/-- An engine is available: it holds no walk request and its own tag is FREE (R63). -/
def engineAvailable (e : EngineId) (s : State) : Bool :=
  !(s.missQueue.any (·.onEngine e)) && (s.tag (engineTag e)).isFree

/-- An available engine takes the oldest QUEUED request, and the walk starts (R63, R64, R65). -/
def startWalk (e : EngineId) (s : State) : State :=
  if engineAvailable e s then
    match s.missQueue.find? (·.walk.isNone) with
    | some w =>
      let x := newWalk e w s
      issue (engineTag e) (walkOp w x)
        { s with missQueue := updFirst (·.walk.isNone) (fun w => { w with walk := some x }) s.missQueue }
    | none => s
  else s

/-- Engine 0 takes the oldest QUEUED request and engine 1 the next (R63). -/
def startWalks (s : State) : State := startWalk 1 (startWalk 0 s)

end Sys2Proof.Machine
end

