-- ==== Sys2Proof/Machine/ApertureTable.lean ====
section
/-! DEFINITION. The aperture table's transitions (Chapter 1): the fault of a list (R19, R22), the switch (R16, R17), the
outcomes of validation jobs (R13, R15), retiring (R24), and the cancelling of jobs they bring (R42, R43). -/

namespace Sys2Proof.Machine

/-! ### Settling marks -/

/-- Discard the settling marks of an aperture's items (R19, R24). -/
def clearMarks (k : ApId) (s : State) : State :=
  let clear (c : OwnerCore) : OwnerCore :=
    if (c.place.map (·.aperture)) == some k then { c with settlingMark := false } else c
  { s with
    postQueue := s.postQueue.map fun e => { e with core := clear e.core }
    slots := s.slots.map fun x => x.map fun c => { c with core := clear c.core }
    missQueue := s.missQueue.map fun w => if w.aperture == k then { w with settlingMark := false } else w }

/-- An owner attributed to an aperture (R5). -/
def OwnerCore.attributed (c : OwnerCore) (k : ApId) : Bool := (c.place.map (·.aperture)) == some k

/-- A post entry that the switch counts: fully translated under the old generation and still queued (R17, R103). -/
def PostEntry.counted (e : PostEntry) (k : ApId) (old : Gen) : Bool :=
  e.core.attributed k && e.core.generation == some old

/-- A slot that the switch counts: fully translated under the old generation with a memory read left (R17, R123). -/
def Slot.counted (c : Slot) (k : ApId) (old : Gen) : Bool :=
  c.core.attributed k && c.core.generation == some old && c.core.readsLeft

/-- A walk that the switch counts: WALKING under the old generation (R17). -/
def WalkRequest.counted (w : WalkRequest) (k : ApId) (old : Gen) : Bool :=
  w.walk.isSome && w.aperture == k && w.generation == old

/-- The number of old-generation items outstanding (R17). -/
def countOld (k : ApId) (old : Gen) (s : State) : Nat :=
  (s.postQueue.filter (·.counted k old)).length +
  ((List.finRange 8).filter fun n => (s.slot n).elim false (·.counted k old)).length +
  (s.missQueue.filter (·.counted k old)).length

/-- Mark each old-generation item counted by the switch (R17). -/
def markOld (k : ApId) (old : Gen) (s : State) : State :=
  { s with
    postQueue := s.postQueue.map fun e =>
      if e.counted k old then { e with core := { e.core with settlingMark := true } } else e
    slots := s.slots.map fun x => x.map fun c =>
      if c.counted k old then { c with core := { c.core with settlingMark := true } } else c
    missQueue := s.missQueue.map fun w => if w.counted k old then { w with settlingMark := true } else w }

/-! ### Owners not fully translated -/

/-- An owner attributed to an aperture and not fully translated: still TRANSLATING (R11). -/
def untranslated (k : ApId) (o : OwnerRef) (s : State) : Bool :=
  match ownerCore o s with
  | some c => c.attributed k && c.progress.isSome
  | none => false

/-- The aperture's owners that are not fully translated, oldest first. -/
def untranslatedOwners (k : ApId) (s : State) : List OwnerRef := (owners s).filter fun o => untranslated k o s

/-- Detach several owners (R58). -/
def detachAll (os : List OwnerRef) (s : State) : State := os.foldl (fun s o => detach o s) s

/-! ### Jobs -/

/-- Cancel the job of an aperture (R42, R43): a WAITING job is removed, a RUNNING one stopped, its reads in BACKOFF
ended and those OUTSTANDING left to the port (R40). No outcome is handed on. -/
def cancelJob (k : ApId) (s : State) : State :=
  let running := (s.jobs.head?.elim false fun j => j.aperture == k && j.running)
  let s := { s with jobs := s.jobs.filter fun j => !(j.aperture == k) }
  if running then cancelOps anyLine true { s with validation := none } else s

/-- Cancel every job, without any report (R45). -/
def cancelAllJobs (s : State) : State :=
  cancelOps anyLine true { s with jobs := [], validation := none }

/-! ### Faulting (Section 1.6) -/

/-- What a walk finds wrong with its list (R66). -/
structure Finding where
  cause : Cause
  sub : Option BadEntry
  index : Nat
  deriving DecidableEq, Repr

/-- The record of an aperture that faults (R19). -/
def Aperture.fault (a : Aperture) : Aperture :=
  { a with state := .faulted, pendingList := none, settling := 0, resume := none }

/-- A piece whose translation is discarded (R22): its target and the generation it was translated under go; its range,
extent index and kind stay for the report (R93; that these are what stays: DEDUCED, log entry 21, safe). -/
def Piece.untranslate (p : Piece) : Piece := { p with target := none, generation := none }

/-- Withdraw an owner (R22): its attachment is removed, and it fails WITHDRAWN. The pieces translated before are kept, ENDED
(R93, R114); those of a post entry without their translations (R22). -/
def withdraw (o : OwnerRef) (s : State) : State :=
  match ownerCore o s with
  | some c =>
    failTranslation o (c.failureOf .withdrawn)
      (if isWrite o then updCore o (fun c => { c with pieces := c.pieces.map Piece.untranslate }) s else s)
  | none => s

/-- The walks of an aperture that run at its fault: their results will be dropped (R21). -/
def dropWalks (k : ApId) (s : State) : State :=
  { s with missQueue := s.missQueue.map fun w =>
      if w.walk.isSome && w.aperture == k then { w with dropped := true } else w }

/-- Withdraw every owner of an aperture that is not fully translated, oldest first, each followed by the leavings it
brings; the aperture's QUEUED requests go (R22). -/
def withdrawAll (k : ApId) (s : State) : State :=
  let os := untranslatedOwners k s
  let s := detachAll os s
  let s := { s with missQueue := s.missQueue.filter fun w => w.walk.isSome || !(w.aperture == k) }
  sweep (fun o s => if os.contains o then withdraw o s else s) s

/-- The fault of an ACTIVE or REBINDING aperture's list (R19): the reports are APERTURE_FAULTED, then those of the
withdrawn owners and their leavings in age order, then REBIND_FAILED (ABORTED) when a REBIND job is cancelled (R20,
R22). -/
def faultAperture (k : ApId) (f : Finding) (s : State) : State :=
  let a := s.ap k
  let s := dropWalks k (invalidateAp k (clearMarks k (updAp k Aperture.fault s)))
  let s := post { kind := .apertureFaulted, cause := some f.cause, sub := f.sub.map SubReason.bad,
                  aperture := some k, generation := some a.generation, extentIndex := some f.index } s
  let s := withdrawAll k s
  if a.state == .rebinding .validating then
    post { kind := .rebindFailed, cause := some .aborted, aperture := some k, generation := some a.generation }
      (cancelJob k s)
  else s

/-! ### Installing a list -/

/-- What a successful job hands over (R37). -/
structure Validated where
  mapped : Nat
  stride : Nat
  places : Checkpoints
  deriving DecidableEq, Repr

/-- The record of an aperture that takes a validated list (R13, R16 steps 1 and 3). -/
def Aperture.installList (a : Aperture) (l : ListRef) (v : Validated) : Aperture :=
  { a with listAddress := l.address, entryCount := l.count, listTag := l.tag, mappedLength := v.mapped,
           stride := v.stride, resume := none }

/-- The record of an aperture that begins to settle (R16 steps 1 and 6): its pending list goes with the phase it
belonged to, in the same event. -/
def Aperture.settle (a : Aperture) (n : Nat) : Aperture :=
  { a with settling := n, state := .rebinding .settling, pendingList := none }

/-- The switch of a REBIND (R16), its seven steps. -/
def switch (k : ApId) (l : ListRef) (v : Validated) (s : State) : State :=
  let old := (s.ap k).generation
  let os := untranslatedOwners k s
  -- steps 1 to 4
  let s := updAp k (fun a => { a.installList l v with generation := old + 1 }) s
  let s := invalidateAp k (setPlaces k v.places s)
  -- step 5
  let s := detachAll os s
  let s := { s with missQueue := s.missQueue.filter fun w => w.walk.isSome || !(w.aperture == k) }
  let s := reofferWith [] os s
  -- steps 6 and 7
  let n := countOld k old s
  settleTest k (updAp k (·.settle n) (markOld k old s))

/-! ### Outcomes of jobs -/

/-- How a job fails (R38, R39). -/
structure JobFailure where
  cause : Cause
  sub : Option SubReason
  index : Nat
  tag : Option TagId
  deriving DecidableEq, Repr

/-- A LOAD job succeeds while its aperture is LOADING (R13). -/
def loadDone (k : ApId) (l : ListRef) (v : Validated) (s : State) : State :=
  if (s.ap k).state == .loading then
    post { kind := .loadDone, aperture := some k, generation := some (s.ap k).generation }
      (setPlaces k v.places (updAp k (fun a => { a.installList l v with state := .active }) s))
  else s

/-- A LOAD job fails while its aperture is LOADING (R13, R38, R39). -/
def loadFailed (k : ApId) (f : JobFailure) (s : State) : State :=
  if (s.ap k).state == .loading then
    post { kind := .loadFailed, cause := some f.cause, sub := f.sub, aperture := some k,
           extentIndex := some f.index, tag := f.tag } (enterFree k s)
  else s

/-- A REBIND job succeeds while its aperture is VALIDATING: the switch (R16). -/
def rebindSucceeds (k : ApId) (l : ListRef) (v : Validated) (s : State) : State :=
  if (s.ap k).state == .rebinding .validating then switch k l v s else s

/-- A REBIND job fails while its aperture is VALIDATING (R15, R38, R39). -/
def rebindFails (k : ApId) (f : JobFailure) (s : State) : State :=
  if (s.ap k).state == .rebinding .validating then
    post { kind := .rebindFailed, cause := some f.cause, sub := f.sub, aperture := some k,
           generation := some (s.ap k).generation, extentIndex := some f.index, tag := f.tag }
      (updAp k (fun a => { a with state := .active, pendingList := none }) s)
  else s

/-! ### Retiring (Section 1.7) -/

/-- The aperture goes to DRAINING, and the condition of R23 is tested in the same event (R24). -/
def startDraining (k : ApId) (s : State) : State :=
  drainTest k (updAp k (fun a => { a with state := .draining, pendingList := none, settling := 0 }) s)

/-- RETIRE of an aperture by its state (R24); absent where the answer is BAD_STATE. -/
def retire (k : ApId) (s : State) : Option State :=
  match (s.ap k).state with
  | .loading =>
    let s := post { kind := .loadFailed, cause := some .aborted, aperture := some k } (enterFree k (cancelJob k s))
    some (post { kind := .retireDone, aperture := some k, generation := some (s.ap k).generation } s)
  | .active => some (startDraining k s)
  | .rebinding .validating =>
    some (startDraining k
      (post { kind := .rebindFailed, cause := some .aborted, aperture := some k,
              generation := some (s.ap k).generation } (cancelJob k s)))
  | .rebinding .settling => some (startDraining k (clearMarks k s))
  | .faulted => some (startDraining k s)
  | .draining => none
  | .free => none

end Sys2Proof.Machine
end

