-- ==== Sys2Proof/Machine/Formats.lean ====
section
/-! DEFINITION. The data formats of Section 10.8: response frames (R167), the aperture record of QUERY and the requester
record of GET_REQUESTER (R177), and the report record of POP_REPORT (R178). -/

namespace Sys2Proof.Machine

/-- The number of an answer (R177). -/
def Answer.code : Answer → Byte
  | .ok => 0
  | .busy => 1
  | .badArgument => 2
  | .badState => 3
  | .overlap => 4
  | .badFrame => 5
  | .empty => 6
  | .unknownCommand => 7

/-- A response frame: answer, command, result length, results and CRC (R167). -/
def Response.frame (r : Response) : List Byte :=
  let body := r.answer.code :: r.command :: BitVec.ofNat 8 r.results.length :: r.results
  body ++ [crc8 body]

/-- The response a FETCH clocks out when none is pending (R167). -/
def emptyResponse : Response := { answer := .empty, command := 0x00 }

/-- A number in a byte. -/
def toByte (n : Nat) : Byte := BitVec.ofNat 8 n

/-- The number of an aperture state (R177). -/
def ApState.code : ApState → Nat
  | .free => 0
  | .loading => 1
  | .active => 2
  | .rebinding _ => 3
  | .draining => 4
  | .faulted => 5

/-- The number of the phase, 0 when absent (R177). -/
def ApState.phaseCode : ApState → Nat
  | .rebinding .validating => 1
  | .rebinding .settling => 2
  | _ => 0

/-- The rights byte (R177). -/
def rightsByte (a : Aperture) : Byte := toByte (flagBit 0 a.readAllowed + flagBit 1 a.writeAllowed)

/-- The 47 bytes of QUERY (R177). -/
def Aperture.encode (k : ApId) (a : Aperture) : List Byte :=
  let rp := a.resume.getD { index := 0, start := 0 }
  let pl := a.pendingList.getD { address := 0, count := 0, tag := 0 }
  [toByte k.val, toByte a.state.code, toByte a.state.phaseCode,
    toByte (flagBit 0 a.resume.isSome + flagBit 1 a.pendingList.isSome)] ++
  leBytes 5 a.windowBase.toNat ++ leBytes 3 (a.windowSize / 4096) ++
  leBytes 5 a.listAddress.toNat ++ leBytes 2 a.entryCount ++ [a.listTag] ++
  leBytes 5 a.mappedLength ++
  [rightsByte a] ++ leBytes 2 a.mask.toNat ++ [a.generation] ++
  leBytes 2 rp.index ++ leBytes 4 rp.start ++
  [toByte a.stride, toByte a.inFlight, toByte a.settling] ++
  leBytes 5 pl.address.toNat ++ leBytes 2 pl.count ++ [pl.tag] ++ [toByte a.faultCount]

/-- The number of a read failure mode (R177). -/
def ReadFailureMode.code : ReadFailureMode → Nat
  | .refuse => 0
  | .ones => 1

/-- The 12 bytes of GET_REQUESTER (R177). -/
def Requester.encode (r : ReqId) (q : Requester) : List Byte :=
  [toByte r.val,
    toByte (flagBit 0 q.enabled + flagBit 1 q.confined + flagBit 2 q.mark.isSome +
      flagBit 3 (q.mark.elim false (·.2)) + flagBit 4 q.lossFlag),
    toByte q.postedLimit, toByte q.slotLimit, toByte q.readFailureMode.code] ++
  leBytes 2 q.refusedCount ++
  [q.taken, q.completed, q.mark.elim 0 (·.1), toByte q.queuedWrites, toByte q.openSlots]

/-- The number of a report kind (R178). -/
def ReportKind.code : ReportKind → Nat
  | .writeLost => 1
  | .readFailed => 2
  | .readDiscarded => 3
  | .apertureFaulted => 4
  | .loadDone => 5
  | .loadFailed => 6
  | .rebindDone => 7
  | .rebindFailed => 8
  | .retireDone => 9
  | .lateResponse => 10
  | .resetDone => 11

/-- The number of a cause (R178). -/
def Cause.code : Cause → Nat
  | .romWrite => 1
  | .guardHit => 2
  | .beyondMap => 3
  | .withdrawn => 4
  | .memoryError => 5
  | .retryExhausted => 6
  | .responseTimeout => 7
  | .badEntry => 8
  | .listChanged => 9
  | .tooLong => 10
  | .aborted => 11

/-- The number of a sub-reason (R178). -/
def SubReason.code : SubReason → Nat
  | .bad .notValid => 1
  | .bad .misaligned => 2
  | .bad .zeroLength => 3
  | .bad .badKind => 4
  | .bad .tagMismatch => 5
  | .bad .targetOverflow => 6
  | .mem c => c.toCause.code

/-- The presence flags of a report record (R178). -/
def Report.presence (p : Report) : Nat :=
  flagBit 0 p.cause.isSome + flagBit 1 p.sub.isSome + flagBit 2 p.requester.isSome +
  flagBit 3 p.aperture.isSome + flagBit 4 p.generation.isSome + flagBit 5 p.sequence.isSome +
  flagBit 6 p.address.isSome + flagBit 7 p.windowOffset.isSome + flagBit 8 p.extentIndex.isSome +
  flagBit 9 p.tag.isSome

/-- The 21 bytes of POP_REPORT (R178). -/
def Report.encode (p : Report) : List Byte :=
  [toByte p.kind.code, toByte (p.cause.elim 0 Cause.code), toByte (p.sub.elim 0 SubReason.code)] ++
  leBytes 2 p.presence ++
  [toByte (p.requester.elim 0 (·.val)), toByte (p.aperture.elim 0 (·.val)), p.generation.getD 0, p.sequence.getD 0] ++
  leBytes 5 (p.address.elim 0 (·.toNat)) ++ leBytes 4 (p.windowOffset.getD 0) ++
  leBytes 2 (p.extentIndex.getD 0) ++ [toByte (p.tag.elim 0 (·.val))]

end Sys2Proof.Machine
end

