-- ==== Sys2Proof/Machine/Arbiter.lean ====
section
/-! DEFINITION. The data-class arbiter (R142, R143). -/

namespace Sys2Proof.Machine

/-- A piece waits for a data tag: PENDING with a target, or ISSUED with its operation's backoff ended (R142). -/
def pieceWaits (o : OwnerRef) (s : State) (p : Piece) : Bool :=
  match p.state with
  | .pending => p.target.isSome
  | .issued => (waitingOp (.piece o p.index) s).isSome
  | _ => false

/-- The entry is its requester's head. -/
def isHead (e : PostEntry) (s : State) : Bool :=
  match head e.core.requester s with
  | some h => h.sequence == e.sequence
  | none => false

/-- An entry that offers pieces: its requester's head, READY or ISSUED (R95, R142). -/
def offersWrites (e : PostEntry) (s : State) : Bool :=
  (e.state == .ready || e.state == .issued) && isHead e s

/-- The write piece that would win: the first waiting piece of the oldest entry that has one (R142). -/
def waitingWrite (s : State) : Option (PostEntry × Piece) :=
  s.postQueue.findSome? fun e =>
    if offersWrites e s then (e.core.pieces.find? (pieceWaits e.ref s)).map fun p => (e, p) else none

/-- The occupied slots, oldest first. -/
def slotsByAge (s : State) : List SlotId := sortByAge (fun n => ageOf (.slot n) s) (occupied s)

/-- The read piece that would win: the first waiting piece of the oldest READING slot that has one (R142). -/
def waitingRead (s : State) : Option (SlotId × Slot × Piece) :=
  (slotsByAge s).findSome? fun n =>
    match s.slot n with
    | some c =>
      if c.state == .reading then (c.core.pieces.find? (pieceWaits (.slot n) s)).map fun p => (n, c, p) else none
    | none => none

/-- The report fields of a piece's operation (R140); the window offset is the piece's (DEDUCED, log entry 8, unsafe). -/
def pieceFields (c : OwnerCore) (seq : Option Seq) (p : Piece) : ReportFields where
  requester := some c.requester
  sequence := seq
  address := some c.address
  aperture := c.place.map (·.aperture)
  generation := p.generation
  windowOffset := c.place.map fun x => x.offset + p.offset
  extentIndex := p.extentIndex

/-- The MWRITE of a piece (R94). -/
def writeOp (e : PostEntry) (p : Piece) : Op where
  cls := .data
  owner := some (.piece e.ref p.index)
  kind := .mwrite
  address := p.target.getD 0
  length := p.length
  data := (e.data.drop p.offset).take p.length
  fields := pieceFields e.core (some e.sequence) p

/-- The MREAD of a piece (R115). -/
def readOp (n : SlotId) (c : Slot) (p : Piece) : Op where
  cls := .data
  owner := some (.piece (.slot n) p.index)
  kind := .mread
  address := p.target.getD 0
  length := p.length
  fields := pieceFields c.core none p

/-- Grant a tag to a write piece: its operation is issued, or issued again after a backoff (R96, R142, R146). -/
def grantWrite (t : TagId) (e : PostEntry) (p : Piece) (s : State) : State :=
  let s := { s with lastGrant := .write }
  match waitingOp (.piece e.ref p.index) s with
  | some op => issue t op (unpark (.piece e.ref p.index) s)
  | none =>
    issue t (writeOp e p)
      (updEntry e.core.requester e.sequence (fun e => { e with state := .issued })
        (updPiece e.ref p.index (fun p => { p with state := .issued }) s))

/-- Grant a tag to a read piece (R115, R142, R146). -/
def grantRead (t : TagId) (n : SlotId) (c : Slot) (p : Piece) (s : State) : State :=
  let s := { s with lastGrant := .read }
  match waitingOp (.piece (.slot n) p.index) s with
  | some op => issue t op (unpark (.piece (.slot n) p.index) s)
  | none => issue t (readOp n c p) (updPiece (.slot n) p.index (fun p => { p with state := .issued }) s)

/-- One grant (R142): the lowest FREE data tag to the winning piece; absent when no tag is FREE or no piece waits. -/
def grantOnce (s : State) : Option State :=
  match freeTag .data s with
  | none => none
  | some t =>
    match waitingWrite s, waitingRead s with
    | some (e, p), some (n, c, x) =>
      if s.lastGrant = .write then some (grantRead t n c x s) else some (grantWrite t e p s)
    | some (e, p), none => some (grantWrite t e p s)
    | none, some (n, c, x) => some (grantRead t n c x s)
    | none, none => none

/-- Grants go on in the event while a data tag is FREE and a piece waits (R142); there are 12 data tags. -/
def grants : Nat → State → State
  | 0, s => s
  | fuel + 1, s =>
    match grantOnce s with
    | some s' => grants fuel s'
    | none => s

end Sys2Proof.Machine
end

