-- ==== Sys2Proof/Machine/Validation.lean ====
section
/-! DEFINITION. The validation engine (Chapter 2): the queue (R27), the start of a job (R28), reading the list (R30, R31),
line order (R32), checking entries (R34, R35) and the end of a job (R37 to R39). -/

namespace Sys2Proof.Machine

/-- A job joins the tail of the validation queue (R27). -/
def joinJob (k : ApId) (p : Purpose) (l : ListRef) (s : State) : State :=
  { s with jobs := s.jobs ++ [{ aperture := k, purpose := p, list := l, running := false }] }

/-- The engine's working record at job start (R28, R29). -/
def newValidation (l : ListRef) : Validation where
  stride := strideOf l.count
  nextIssue := 0
  nextProcess := 0
  unprocessed := 0
  held := none
  failure := none
  nextEntry := 0
  offset := 0
  build := Vector.replicate 32 none

/-- The job at the head of the queue becomes RUNNING (R28). -/
def startJob (s : State) : State :=
  match s.jobs with
  | j :: js =>
    if j.running then s
    else { s with jobs := { j with running := true } :: js, validation := some (newValidation j.list) }
  | [] => s

/-! ### Reading the list -/

/-- The read of a line of the list (R30). -/
def lineOp (j : Job) (k : Nat) : Op where
  cls := .validation
  owner := some (.line k)
  kind := .mread
  address := entryAddress j.list.address (lineFirst j.list.address k)
  length := 16 * entriesInLine j.list.address j.list.count (lineFirst j.list.address k)
  fields := { aperture := some j.aperture, extentIndex := some (lineFirst j.list.address k) }

/-- The line number of a validation read. -/
def lineOf (op : Op) : Option Nat :=
  match op.owner with
  | some (.line k) => some k
  | _ => none

/-- The earliest line in list order whose read waits for a tag, its backoff ended (R141). -/
def waitingLine (s : State) : Option Nat :=
  (s.parked.filterMap fun p => if p.waiting then lineOf p.op else none).foldl
    (fun best k => match best with
      | none => some k
      | some b => some (min b k)) none

/-- A new line may be issued (R31): lines remain, fewer than 2 are issued and not processed, no failure recorded. -/
def newLineDue (j : Job) (v : Validation) : Bool :=
  decide (v.nextIssue < lineCount j.list.address j.list.count) && decide (v.unprocessed < 2) && v.failure.isNone

/-- Issue one line read under a FREE validation tag: a line whose backoff has ended first, else the next new line (R31,
R141). -/
def issueLine (s : State) : State :=
  match freeTag .validation s, s.jobs.head?, s.validation with
  | some t, some j, some v =>
    match waitingLine s with
    | some k =>
      match waitingOp (.line k) s with
      | some op => issue t op (unpark (.line k) s)
      | none => s
    | none =>
      if newLineDue j v then
        issue t (lineOp j v.nextIssue)
          { s with validation := some { v with nextIssue := v.nextIssue + 1, unprocessed := v.unprocessed + 1 } }
      else s
  | _, _, _ => s

/-- The validation engine goes on as far as it can in an event: the head job starts, and reads are issued under both
tags (R28, R31). -/
def runValidation (s : State) : State := issueLine (issueLine (startJob s))

/-! ### Checking entries -/

/-- What checking a line comes to (R34). -/
inductive Checked where
  | failed (f : JobFailure)
  | passed (v : Validation)
  deriving DecidableEq, Repr

/-- Make a checkpoint place of the build buffer valid (R34 step 2). -/
def Validation.store (v : Validation) (i : Nat) : Validation :=
  if i % v.stride == 0 then { v with build := v.build.setIfInBounds (i / v.stride) (some v.offset) } else v

/-- The five steps of R34 for each entry of a line. -/
def checkEntries (listTag : Byte) (window : Nat) : List RawEntry → Validation → Checked
  | [], v => .passed v
  | e :: es, v =>
    match checkEntry listTag e with
    | some b => .failed { cause := .badEntry, sub := some (.bad b), index := v.nextEntry, tag := none }
    | none =>
      let w := v.store v.nextEntry
      let o := v.offset + e.bytes
      if window < o then .failed { cause := .tooLong, sub := none, index := v.nextEntry, tag := none }
      else checkEntries listTag window es { w with offset := o, nextEntry := v.nextEntry + 1 }

/-! ### The end of a job -/

/-- The job at the head ends (Section 2.5): it leaves the queue, and its remaining reads are left to the port (R40). -/
def closeJob (s : State) : State :=
  cancelOps anyLine true { s with jobs := s.jobs.tail, validation := none }

/-- The running job fails and hands its outcome to the aperture table (R13, R15, R38, R39). -/
def failJob (j : Job) (f : JobFailure) (s : State) : State :=
  match j.purpose with
  | .load => loadFailed j.aperture f (closeJob s)
  | .rebind => rebindFails j.aperture f (closeJob s)

/-- The running job succeeds and hands its outcome to the aperture table (R13, R16, R37). -/
def succeedJob (j : Job) (v : Validation) (s : State) : State :=
  let r : Validated := { mapped := v.offset, stride := v.stride, places := v.build }
  match j.purpose with
  | .load => loadDone j.aperture j.list r (closeJob s)
  | .rebind => rebindSucceeds j.aperture j.list r (closeJob s)

/-- The failure of a line read (R39). -/
def lineJobFailure (j : Job) (f : LineFailure) : JobFailure where
  cause := .memoryError
  sub := some (.mem f.cause)
  index := lineFirst j.list.address f.line
  tag := some f.tag

/-! ### Taking lines in list order -/

/-- A line has been processed: the next line to process advances, the count of lines issued and not processed falls, and
the engine tests whether it can issue a read (R32, R31). -/
def advanceLine (v : Validation) (s : State) : State :=
  let v := { v with nextProcess := v.nextProcess + 1, unprocessed := v.unprocessed - 1 }
  issueLine { s with validation := some v }

/-- Process the next line in list order, then the held line if it is now next, or the recorded failure (R32). At most
one line is held, so two rounds do. A read issued between the two is left to the port when the job ends at the second
(R40). -/
def processLines : Nat → Job → List Byte → Validation → State → State
  | 0, _, _, v, s => { s with validation := some v }
  | fuel + 1, j, bytes, v, s =>
    let n := entriesInLine j.list.address j.list.count (lineFirst j.list.address v.nextProcess)
    match checkEntries j.list.tag (s.ap j.aperture).windowSize (entriesOf n bytes) v with
    | .failed f => failJob j f s
    | .passed v =>
      if v.nextEntry = j.list.count then succeedJob j v s
      else
        let s := advanceLine v s
        match s.validation with
        | none => s
        | some v =>
          match v.held, v.failure with
          | some (k, bs), _ =>
            if k = v.nextProcess then
              let v := { v with held := none }
              processLines fuel j bs v { s with validation := some v }
            else s
          | none, some f => if f.line = v.nextProcess then failJob j (lineJobFailure j f) s else s
          | none, none => s

/-- The read of a line ends OK (R32): the line is processed when it is next, else held. -/
def lineOk (k : Nat) (bytes : List Byte) (s : State) : State :=
  match s.jobs.head?, s.validation with
  | some j, some v =>
    if k = v.nextProcess then processLines 2 j bytes v s
    else { s with validation := some { v with held := some (k, bytes) } }
  | _, _ => s

/-- The read of a line ends in failure (R32): the job ends when the line is next, else the failure is recorded. -/
def lineFailed (k : Nat) (c : MemCause) (t : TagId) (s : State) : State :=
  match s.jobs.head?, s.validation with
  | some j, some v =>
    let f : LineFailure := { line := k, cause := c, tag := t }
    if k = v.nextProcess then failJob j (lineJobFailure j f) s
    else { s with validation := some { v with failure := some f } }
  | _, _ => s

end Sys2Proof.Machine
end

