-- ==== Sys2Proof/Machine/Settle.lean ====
section
/-! DEFINITION. The end of an event: FREE tags are offered to their classes (R63, R31, R142, R144) and the soft reset's
condition is tested (R174). -/

namespace Sys2Proof.Machine

/-- The soft reset completes (R174): every block takes its reset values and RESET_DONE is posted into the empty queue.
The pending response and the tick counter stand (R167, R148). -/
def softReset (s : State) : State :=
  post { kind := .resetDone }
    { State.reset with
      pending := s.pending, response := s.response, tickCounter := s.tickCounter, resetLow := s.resetLow,
      out := s.out, nextAge := s.nextAge, choices := s.choices }

/-- The test of R174. -/
def softResetTest (s : State) : State := if resetDue s then softReset s else s

/-- FREE tags are offered to their classes after the owners have acted (R144), and the soft reset's test is made.
The order of the classes is a DESIGN CHOICE (log entry 11, unsafe). -/
def offerTags (s : State) : State := softResetTest (runValidation (grants 12 (startWalks s)))

end Sys2Proof.Machine
end

