-- ==== Sys2Proof/Machine/Management.lean ====
section
/-! DEFINITION. The management port: the answering of a command frame (R166 to R168), each command's checks and effect (R53,
R128, R129, R160, R161, R169 to R173), and FETCH (R167). -/

namespace Sys2Proof.Machine

/-! ### Frames and answers -/

/-- The port makes a new pending response, discarding any earlier one (R167). -/
def answer (code : Byte) (a : Answer) (results : List Byte) (s : State) : State :=
  { s with response := some { answer := a, command := code, results := results } }

/-- The answer OK without results. -/
def answerOk (code : Byte) (s : State) : State := answer code .ok [] s

/-- While a command frame of `n` bytes is clocked in, the port drives 0xFF on MGT_DO (R165). -/
def driveFrame (n : Nat) (s : State) : State := { s with out := { s.out with mgt := List.replicate n 0xFF } }

/-- A complete command frame with a good CRC and an assigned code is taken: the argument length (R166 step 3), the
quiescing gate (R168), and then the command itself. While RESETn is low no frame is taken (R175). -/
def takeCommand (code : Byte) (n : Nat) (gated : Bool) (args : List Byte) (body : State → State) (s : State) : State :=
  if s.resetLow then s
  else
    let s := driveFrame (3 + args.length) s
    if args.length ≠ n then answer code .badFrame [] s
    else if gated && s.quiescing then answer code .busy [] s
    else body s

/-- A command that names an aperture: above 15 is BAD_ARGUMENT (R170 to R172). -/
def withId (code b : Byte) (f : Fin 16 → State → State) (s : State) : State :=
  match smallId b with
  | some k => f k s
  | none => answer code .badArgument [] s

/-! ### Identity, status and settings (R169) -/

/-- The results of IDENT (R169). -/
def identResults : List Byte := [Config.familyCode, Config.revisionCode, 16, 32, 16, 8, 16]

/-- IDENT (R169). -/
def identFrame (args : List Byte) (s : State) : State :=
  takeCommand 0x01 0 false args (answer 0x01 .ok identResults) s

/-- The results of GET_STATUS (R169, R177). -/
def statusResults (s : State) : List Byte :=
  [toByte (flagBit 0 s.quiescing), toByte s.reports.length, toByte s.dropped, toByte s.postQueue.length,
    toByte (occupied s).length, toByte (tagsInUse .walk s), toByte (tagsInUse .validation s),
    toByte (tagsInUse .data s), toByte (tagsQuarantined s)]

/-- GET_STATUS (R161, R169): the dropped count is cleared after it is read when the clear argument is set. -/
def getStatusFrame (args : List Byte) (s : State) : State :=
  takeCommand 0x02 1 false args (fun s =>
    let s' := answer 0x02 .ok (statusResults s) s
    if (byteAt args 0).getLsbD 0 then { s' with dropped := 0 } else s') s

/-- SET_GLOBAL (R153, R169). -/
def setGlobalFrame (args : List Byte) (s : State) : State :=
  takeCommand 0x03 4 true args (fun s =>
    match globalArgs args with
    | some g => answerOk 0x03 { s with settings := g }
    | none => answer 0x03 .badArgument [] s) s

/-! ### Requesters (R128, R129) -/

/-- GET_REQUESTER (R128). -/
def getRequesterFrame (args : List Byte) (s : State) : State :=
  takeCommand 0x05 1 false args
    (withId 0x05 (byteAt args 0) fun r s => answer 0x05 .ok ((s.req r).encode r) s) s

/-- The five settings and the clear option of SET_REQUESTER applied to a record (R129). -/
def Requester.setTo (q : Requester) (args : List Byte) (mode : ReadFailureMode) : Requester :=
  { q with
    enabled := (byteAt args 1).getLsbD 0
    confined := (byteAt args 1).getLsbD 1
    postedLimit := (byteAt args 2).toNat
    slotLimit := (byteAt args 3).toNat
    readFailureMode := mode
    refusedCount := if (byteAt args 1).getLsbD 2 then 0 else q.refusedCount }

/-- The limits of SET_REQUESTER are in range (R129). -/
def limitsInRange (args : List Byte) : Bool :=
  decide (1 ≤ (byteAt args 2).toNat) && decide ((byteAt args 2).toNat ≤ 16) &&
    decide (1 ≤ (byteAt args 3).toNat) && decide ((byteAt args 3).toNat ≤ 4)

/-- SET_REQUESTER (R129). -/
def setRequesterFrame (args : List Byte) (s : State) : State :=
  takeCommand 0x04 5 true args
    (withId 0x04 (byteAt args 0) fun r s =>
      match modeOfCode (byteAt args 4) with
      | some mode =>
        if limitsInRange args then answerOk 0x04 (updReq r (·.setTo args mode) s)
        else answer 0x04 .badArgument [] s
      | none => answer 0x04 .badArgument [] s) s

/-! ### Aperture commands -/

/-- The record of an aperture at LOAD acceptance (R12). -/
def Aperture.loaded (l : LoadArgs) : Aperture :=
  { state := .loading, windowBase := l.base, windowSize := l.size, readAllowed := l.readAllowed,
    writeAllowed := l.writeAllowed, mask := l.mask }

/-- A LOAD that names an aperture: its checks in order (R170), and its acceptance (R12). -/
def loadAperture (l : LoadArgs) (k : ApId) (s : State) : State :=
  if (s.ap k).state ≠ .free then answer 0x10 .badState [] s
  else if !l.inRange then answer 0x10 .badArgument [] s
  else if windowTaken l.base l.size s then answer 0x10 .overlap [] s
  else if 4 ≤ s.jobs.length then answer 0x10 .busy [] s
  else answerOk 0x10 (runValidation (joinJob k .load l.list (setAp k (Aperture.loaded l) s)))

/-- LOAD (R12, R170). -/
def loadFrame (args : List Byte) (s : State) : State :=
  takeCommand 0x10 20 true args (withId 0x10 (byteAt args 0) (loadAperture (loadArgs args))) s

/-- A REBIND that names an aperture: its checks in order (R171), and its acceptance (R14). -/
def rebindAperture (l : ListRef) (k : ApId) (s : State) : State :=
  if (s.ap k).state ≠ .active then answer 0x11 .badState [] s
  else if !listInRange l then answer 0x11 .badArgument [] s
  else if 4 ≤ s.jobs.length then answer 0x11 .busy [] s
  else
    answerOk 0x11 (runValidation (joinJob k .rebind l
      (updAp k (fun a => { a with state := .rebinding .validating, pendingList := some l }) s)))

/-- REBIND (R14, R171). -/
def rebindFrame (args : List Byte) (s : State) : State :=
  takeCommand 0x11 9 true args (withId 0x11 (byteAt args 0) (rebindAperture (rebindArgs args))) s

/-- RETIRE (R24, R172); a job that moves up starts in the same event (R42, R43). -/
def retireAperture (k : ApId) (s : State) : State :=
  match retire k s with
  | some s' => answerOk 0x12 (runValidation s')
  | none => answer 0x12 .badState [] s

/-- RETIRE (R172). -/
def retireFrame (args : List Byte) (s : State) : State :=
  takeCommand 0x12 1 true args (withId 0x12 (byteAt args 0) retireAperture) s

/-- The rights and mask of SET_ACCESS applied to a record (R18, R177). -/
def Aperture.setAccess (a : Aperture) (args : List Byte) : Aperture :=
  { a with
    readAllowed := (byteAt args 1).getLsbD 0
    writeAllowed := (byteAt args 1).getLsbD 1
    mask := BitVec.ofNat 16 (field args 2 2) }

/-- SET_ACCESS (R18, R172). -/
def setAccessFrame (args : List Byte) (s : State) : State :=
  takeCommand 0x13 4 true args
    (withId 0x13 (byteAt args 0) fun k s =>
      if (s.ap k).state.serves then answerOk 0x13 (updAp k (·.setAccess args) s)
      else answer 0x13 .badState [] s) s

/-- QUERY (R1, R172, R177). -/
def queryFrame (args : List Byte) (s : State) : State :=
  takeCommand 0x14 1 false args
    (withId 0x14 (byteAt args 0) fun k s => answer 0x14 .ok ((s.ap k).encode k) s) s

/-- INVALIDATE (R53, R172): 0xFF names every aperture. -/
def invalidateFrame (args : List Byte) (s : State) : State :=
  takeCommand 0x15 1 true args (fun s =>
    if byteAt args 0 = 0xFF then answerOk 0x15 (forgetAll s)
    else withId 0x15 (byteAt args 0) (fun k s => answerOk 0x15 (forget k s)) s) s

/-- POP_REPORT (R160): the record at the head becomes the pending response. -/
def popReportFrame (args : List Byte) (s : State) : State :=
  takeCommand 0x20 0 true args (fun s =>
    match s.reports with
    | p :: ps => answer 0x20 .ok p.encode { s with reports := ps }
    | [] => answer 0x20 .empty [] s) s

/-! ### RESET -/

/-- An aperture at the start of quiescing: VALIDATING returns to ACTIVE with its pending list absent (R25). -/
def Aperture.quiesce (a : Aperture) : Aperture :=
  if a.state == .rebinding .validating then { a with state := .active, pendingList := none } else a

/-- The start of quiescing (R173): the flag is set, every job is cancelled and every slot freed without report (R45,
R125), and the unqueued pieces are offered when walk requests have left (R61, R71). -/
def startQuiescing (s : State) : State :=
  let s := cancelAllJobs { s with quiescing := true, apertures := s.apertures.map Aperture.quiesce }
  reofferIfLeft s (freeSlots (occupied s) s)

/-- RESET (R173): quiescing starts, and the soft reset completes at once when its condition already holds (R174). -/
def resetFrame (args : List Byte) (s : State) : State :=
  takeCommand 0x3C 0 true args (fun s => offerTags (answerOk 0x3C (startQuiescing s))) s

/-! ### The commands as meanings -/

/-- IDENT (R169). -/
def execIdent (args : List Byte) (s : State) : Host.Outcome State Fault Refusal := .next (identFrame args (beginEvent s))

/-- GET_STATUS (R169). -/
def execGetStatus (args : List Byte) (s : State) : Host.Outcome State Fault Refusal :=
  .next (getStatusFrame args (beginEvent s))

/-- SET_GLOBAL (R153, R169). -/
def execSetGlobal (args : List Byte) (s : State) : Host.Outcome State Fault Refusal :=
  .next (setGlobalFrame args (beginEvent s))

/-- GET_REQUESTER (R128). -/
def execGetRequester (args : List Byte) (s : State) : Host.Outcome State Fault Refusal :=
  .next (getRequesterFrame args (beginEvent s))

/-- SET_REQUESTER (R129). -/
def execSetRequester (args : List Byte) (s : State) : Host.Outcome State Fault Refusal :=
  .next (setRequesterFrame args (beginEvent s))

/-- LOAD (R12, R170). -/
def execLoad (args : List Byte) (s : State) : Host.Outcome State Fault Refusal := .next (loadFrame args (beginEvent s))

/-- REBIND (R14, R171). -/
def execRebind (args : List Byte) (s : State) : Host.Outcome State Fault Refusal := .next (rebindFrame args (beginEvent s))

/-- RETIRE (R24, R172). -/
def execRetire (args : List Byte) (s : State) : Host.Outcome State Fault Refusal := .next (retireFrame args (beginEvent s))

/-- SET_ACCESS (R18, R172). -/
def execSetAccess (args : List Byte) (s : State) : Host.Outcome State Fault Refusal :=
  .next (setAccessFrame args (beginEvent s))

/-- QUERY (R172). -/
def execQuery (args : List Byte) (s : State) : Host.Outcome State Fault Refusal := .next (queryFrame args (beginEvent s))

/-- INVALIDATE (R53, R172). -/
def execInvalidate (args : List Byte) (s : State) : Host.Outcome State Fault Refusal :=
  .next (invalidateFrame args (beginEvent s))

/-- POP_REPORT (R160). -/
def execPopReport (args : List Byte) (s : State) : Host.Outcome State Fault Refusal :=
  .next (popReportFrame args (beginEvent s))

/-- RESET (R173). -/
def execReset (args : List Byte) (s : State) : Host.Outcome State Fault Refusal := .next (resetFrame args (beginEvent s))

end Sys2Proof.Machine
end

