-- ==== Sys2Proof/WellFormed.lean ====
section
/-! DEFINITION. The checks on a command as syntax: each operand is one that the row's event can carry. Every other
bound is in the operand's type. -/

namespace Sys2Proof

/-- The command codes of R177. -/
def assignedCodes : List Byte :=
  [0x00, 0x01, 0x02, 0x03, 0x04, 0x05, 0x10, 0x11, 0x12, 0x13, 0x14, 0x15, 0x20, 0x3C]

/-- An argument length byte holds 0 to 255 (R165). -/
def wfArgs (args : List Byte) : Bool := decide (args.length ≤ 255)

/-- Whether the whole bytes of a frame end before its CRC byte (R165): fewer than 3 + n of them. -/
def endsEarly (bytes : List Byte) : Bool :=
  match bytes with
  | _ :: n :: rest => decide (rest.length < n.toNat + 1)
  | _ => true

/-- Well-formedness of a command. -/
def Instr.wf : Instr → Bool
  | .write _ _ _ _ _ => true
  | .read _ _ _ => true
  | .sync _ => true
  | .unassignedKind _ => true
  | .responseOk _ _ => true
  | .responseBusy _ => true
  | .responseError _ code => decide (2 ≤ code)
  | .responseTimeout _ => true
  | .discardExpiry _ => true
  | .backoffEnd (.walk _) => true
  | .backoffEnd (.line k) => decide (k < 1025)
  | .backoffEnd (.piece _ i) => decide (i < 4)
  | .tick => true
  | .fetch _ _ _ => true
  | .ident args => wfArgs args
  | .getStatus args => wfArgs args
  | .setGlobal args => wfArgs args
  | .getRequester args => wfArgs args
  | .setRequester args => wfArgs args
  | .load args => wfArgs args
  | .rebind args => wfArgs args
  | .retire args => wfArgs args
  | .setAccess args => wfArgs args
  | .query args => wfArgs args
  | .invalidate args => wfArgs args
  | .popReport args => wfArgs args
  | .reset args => wfArgs args
  | .incompleteFrame bytes => !bytes.isEmpty && endsEarly bytes
  | .unknownCommand code args => wfArgs args && !assignedCodes.contains code
  | .hardwareReset => true
  | .resetnRelease => true
  | .softResetComplete => true
  | .drainComplete _ => true
  | .settlingEnd _ => true
  | .entryLeave _ => true
  | .entryEligible _ => true
  | .fenceMet _ => true
  | .arbiterGrant => true
  | .walkStart => true
  | .jobStart => true
  | .validationReadIssue => true
  | .unqueuedReoffer => true
  | .badFrame code args crc =>
    wfArgs args && !(code == 0) && !(crc == Machine.frameCrc code args)

end Sys2Proof
end

