-- ==== Sys2Proof/Machine/Frames.lean ====
section
/-! DEFINITION. Frames as bytes on the serial link (R165 to R167): FETCH, command codes, incomplete frames and bad ones. -/

namespace Sys2Proof.Machine

/-! ### FETCH -/

/-- The response frame that a FETCH clocks out (R167). -/
def fetched (s : State) : List Byte := (s.response.getD emptyResponse).frame

/-- The first `n` bytes of a list, 0xFF past its end (R167). -/
def clockOut (n : Nat) (bs : List Byte) : List Byte := (bs ++ List.replicate n 0xFF).take n

/-- A FETCH frame of three bytes, with `clocks` bytes clocked after them (R165, R167): 0xFF while the three are clocked in;
then, with a length byte of 0 and a right CRC, the pending response, and 0xFF past its end, else 0xFF alone. The response
stays pending. -/
def fetchFrame (len crc : Byte) (clocks : Nat) (s : State) : State :=
  if s.resetLow then s
  else
    let bytes := if len = 0 ∧ crc = crc8 [0x00, len] then fetched s else []
    { s with out := { s.out with mgt := List.replicate 3 0xFF ++ clockOut clocks bytes } }

/-- A FETCH frame that ends within its first three bytes (R165, R167): 0xFF while its `n` whole bytes are clocked in, and it
is not carried out. -/
def shortFetch (n : Nat) (s : State) : State := if s.resetLow then s else driveFrame n s

/-- FETCH (R167). -/
def execFetch (len crc : Byte) (clocks : Nat) (s : State) : Host.Outcome State Fault Refusal :=
  .next (fetchFrame len crc clocks (beginEvent s))

/-! ### Command frames by their code -/

/-- The answer to a frame that is not carried out: only the pending response changes (R166, R167). -/
def rejectFrame (n : Nat) (code : Byte) (a : Answer) (s : State) : State :=
  if s.resetLow then s else answer code a [] (driveFrame n s)

/-- A complete command frame with a good CRC is taken by its code (R166 step 2, R177). -/
def commandByCode (code : Byte) (args : List Byte) (s : State) : State :=
  if code = 0x01 then identFrame args s
  else if code = 0x02 then getStatusFrame args s
  else if code = 0x03 then setGlobalFrame args s
  else if code = 0x04 then setRequesterFrame args s
  else if code = 0x05 then getRequesterFrame args s
  else if code = 0x10 then loadFrame args s
  else if code = 0x11 then rebindFrame args s
  else if code = 0x12 then retireFrame args s
  else if code = 0x13 then setAccessFrame args s
  else if code = 0x14 then queryFrame args s
  else if code = 0x15 then invalidateFrame args s
  else if code = 0x20 then popReportFrame args s
  else if code = 0x3C then resetFrame args s
  else rejectFrame (3 + args.length) code .unknownCommand s

/-- A complete frame whose code is not FETCH: the CRC check of R166 step 1, then the command. -/
def completeFrame (code : Byte) (args : List Byte) (crc : Byte) (s : State) : State :=
  if crc = frameCrc code args then commandByCode code args s
  else rejectFrame (3 + args.length) code .badFrame s

/-- The whole bytes of a frame, from the fall to the rise of MGT_CSn (R165): no whole byte is ignored, a FETCH code is
a FETCH frame (R167), a frame that ends before its CRC byte is incomplete, and bytes after the CRC byte are ignored. -/
def takeBytes (bytes : List Byte) (s : State) : State :=
  match bytes with
  | [] => s
  | [code] => if code = 0x00 then shortFetch 1 s else rejectFrame 1 code .badFrame s
  | code :: n :: rest =>
    if code = 0x00 then
      match rest with
      | [] => shortFetch 2 s
      | crc :: more => fetchFrame n crc more.length s
    else
      match rest.drop n.toNat with
      | [] => rejectFrame bytes.length code .badFrame s
      | crc :: _ => completeFrame code (rest.take n.toNat) crc s

/-- INCOMPLETE_FRAME (R165, R166): BAD_FRAME with the first byte received, unless that is the FETCH code. -/
def execIncompleteFrame (bytes : List Byte) (s : State) : Host.Outcome State Fault Refusal :=
  .next (takeBytes bytes (beginEvent s))

/-- UNKNOWN_COMMAND (R166): a good CRC and an unassigned code; another code is the frame it is (DESIGN CHOICE, log
entry 15, safe). -/
def execUnknownCommand (code : Byte) (args : List Byte) (s : State) : Host.Outcome State Fault Refusal :=
  .next (if code = 0x00 then fetchFrame (BitVec.ofNat 8 args.length) (frameCrc code args) args.length (beginEvent s)
    else completeFrame code args (frameCrc code args) (beginEvent s))

/-- BAD_FRAME (R166): a complete frame whose CRC byte is wrong. -/
def execBadFrame (code : Byte) (args : List Byte) (crc : Byte) (s : State) : Host.Outcome State Fault Refusal :=
  .next (if code = 0x00 then fetchFrame (BitVec.ofNat 8 args.length) crc args.length (beginEvent s)
    else completeFrame code args crc (beginEvent s))

end Sys2Proof.Machine
end

