-- ==== Sys2Proof/Machine/Initiator.lean ====
section
/-! DEFINITION. The initiator port: presentations, the decode order (Section 4.3), the take of a write (R90 to R92), the
answers and opening of read slots (R110, R113) and the SYNC procedure (R132 to R134). -/

namespace Sys2Proof.Machine

/-! ### Answers -/

/-- The response RETRY (R75). -/
def busRetry : BusResponse := { code := .retry }

/-- The response REFUSED with a reason (R76). -/
def busRefused (why : RefusalReason) : BusResponse := { code := .refused why }

/-- A decode refusal: the answer, and one more in the refused count (R76, R86). -/
def refuse (r : ReqId) (why : RefusalReason) (s : State) : State := countRefusal r (respond (busRefused why) s)

/-! ### Decode -/

/-- What steps 3 to 5 of the decode order come to (Section 4.3). -/
inductive Decoded where
  | retry
  | refused (why : RefusalReason)
  | pass
  | translated (p : Place)
  deriving DecidableEq, Repr

/-- The kind of access is in the aperture's rights (R81). -/
def Aperture.allows (a : Aperture) (write : Bool) : Bool := if write then a.writeAllowed else a.readAllowed

/-- The checks of an ACTIVE or REBINDING aperture: mask and rights (R81), then the mapped length (R82). -/
def decodeServed (write : Bool) (r : ReqId) (off len : Nat) (k : ApId) (a : Aperture) : Decoded :=
  if !(a.mask.getLsbD r.val && a.allows write) then .refused .notPermitted
  else if a.mappedLength < off + len then .refused .beyondMap
  else .translated { aperture := k, offset := off }

/-- Steps 3 to 5 of the decode order (R79 to R83). -/
def decode (write : Bool) (r : ReqId) (a : Addr) (len : Nat) (s : State) : Decoded :=
  if s.quiescing then .retry
  else
    match claimant a s with
    | some k =>
      match (s.ap k).state with
      | .loading => .retry
      | .active => decodeServed write r (a.toNat - (s.ap k).windowBase.toNat) len k (s.ap k)
      | .rebinding _ => decodeServed write r (a.toNat - (s.ap k).windowBase.toNat) len k (s.ap k)
      | .draining => .refused .closing
      | .faulted => .refused .faulted
      | .free => .pass
    | none => if (s.req r).confined then .refused .outside else .pass

/-! ### WRITE -/

/-- The resource check of a WRITE (R84). -/
def writeRoom (r : ReqId) (s : State) : Bool :=
  decide (s.postQueue.length < 16) && decide ((s.req r).queuedWrites < (s.req r).postedLimit)

/-- The entry created at a take (R90). -/
def newEntry (r : ReqId) (a : Addr) (len : Nat) (data : List Byte) (p : Option Place) (seq : Seq) (age : Nat) : PostEntry where
  core := { requester := r, address := a, length := len, place := p, age := age }
  sequence := seq
  data := data
  state := .translating

/-- The open slots of a requester whose bytes overlap a write's (R92). -/
def overlapping (r : ReqId) (a : Addr) (len : Nat) (s : State) : List SlotId :=
  (occupied s).filter fun n =>
    (s.slot n).elim false fun c => c.core.requester == r && overlaps a len c.core.address c.core.length

/-- An entry joins the tail of the post queue (R90): its requester's taken sequence advances and its queued write count
rises, and its aperture's in-flight count rises. -/
def createEntry (e : PostEntry) (s : State) : State :=
  raiseInFlight e.core.place
    (updReq e.core.requester (fun q => { q with taken := e.sequence, queuedWrites := q.queuedWrites + 1 })
      { s with postQueue := s.postQueue ++ [e], nextAge := s.nextAge + 1 })

/-- A WRITE is taken (R90): the entry is created, overlapping slots of the requester are dropped (R92), and its
translation begins; what becomes eligible or may leave does so in the same event. -/
def takeWrite (r : ReqId) (a : Addr) (len : Nat) (data : List Byte) (p : Option Place) (s : State) : State :=
  let seq := (s.req r).taken + 1
  let s := createEntry (newEntry r a len data p seq s.nextAge) (respond { code := .taken } s)
  let s := reofferIfLeft s (freeSlots (overlapping r a len s) s)
  offerTags (leaveAll r (beginTranslation (.entry r seq) s))

/-- Step 6 of the decode order for a WRITE (R84). -/
def writeDecoded (r : ReqId) (a : Addr) (len : Nat) (data : List Byte) (p : Option Place) (s : State) : State :=
  if writeRoom r s then takeWrite r a len data p s else respond busRetry s

/-- A WRITE presentation, in the decode order (Section 4.3). -/
def writePresented (r : ReqId) (a : Addr) (len : Nat) (lanes : Lanes) (s : State) : State :=
  if s.resetLow then respond busRetry s
  else if malformed a len then refuse r .malformed s
  else if !(s.req r).enabled then refuse r .disabled s
  else
    match decode true r a len s with
    | .retry => respond busRetry s
    | .refused why => refuse r why s
    | .pass => writeDecoded r a len (bytesOfLanes a len lanes) none s
    | .translated p => writeDecoded r a len (bytesOfLanes a len lanes) (some p) s

/-- WRITE (R72 to R92). The byte enables are not examined (R73). -/
def execWrite (r : ReqId) (a : Addr) (len : BitVec 7) (lanes : Lanes) (_enables : BitVec 64) (s : State) :
    Host.Outcome State Fault Refusal :=
  .next (writePresented r a len.toNat lanes (beginEvent s))

/-! ### READ -/

/-- A slot's match key: requester, address and length (R110). -/
def Slot.matchesKey (c : Slot) (r : ReqId) (a : Addr) (len : Nat) : Bool :=
  c.core.requester == r && c.core.address == a && c.core.length == len

/-- The occupied slot that a presentation matches (R110). -/
def matchingSlot (r : ReqId) (a : Addr) (len : Nat) (s : State) : Option SlotId :=
  (List.finRange 8).find? fun n => (s.slot n).elim false (·.matchesKey r a len)

/-- A matching slot's answer (R110), and whether it is collected. -/
def slotAnswer (c : Slot) (mode : ReadFailureMode) : BusResponse × Bool :=
  match c.state with
  | .ready => ({ code := .data, lanes := lanesOfBytes c.core.address c.data }, true)
  | .failed =>
    match mode with
    | .refuse => (busRefused .failed, true)
    | .ones => ({ code := .data, lanes := lanesOfBytes c.core.address (List.replicate c.core.length 0xFF),
                  poison := true }, true)
  | _ => (busRetry, false)

/-- A matching slot answers the presentation, and is freed when it is collected (R110, R111). -/
def answerFromSlot (n : SlotId) (s : State) : State :=
  match s.slot n with
  | some c =>
    let x := slotAnswer c (s.req c.core.requester).readFailureMode
    let s := respond x.1 s
    if x.2 then freeSlot n s else s
  | none => s

/-- The EMPTY slot that an opening takes; which one has no effect (R113; DESIGN CHOICE, log entry 11). -/
def emptySlot (s : State) : Option SlotId := (List.finRange 8).find? fun n => (s.slot n).isNone

/-- The slot as it opens (R112, R113). -/
def newSlot (r : ReqId) (a : Addr) (len : Nat) (p : Option Place) (s : State) : Slot where
  core := { requester := r, address := a, length := len, place := p, age := s.nextAge }
  fence := (s.req r).taken
  fenceMet := (s.req r).queuedWrites == 0
  state := .translating

/-- A slot opens (R113): the counts rise, translation begins, and the presentation is answered RETRY. -/
def openSlot (n : SlotId) (r : ReqId) (a : Addr) (len : Nat) (p : Option Place) (s : State) : State :=
  let c := newSlot r a len p s
  let s := setSlot n (some c) { respond busRetry s with nextAge := s.nextAge + 1 }
  let s := raiseInFlight p (updReq r (fun q => { q with openSlots := q.openSlots + 1 }) s)
  offerTags (beginTranslation (.slot n) s)

/-- Step 6 of the decode order for a READ (R85). -/
def readDecoded (r : ReqId) (a : Addr) (len : Nat) (p : Option Place) (s : State) : State :=
  match emptySlot s with
  | some n => if (s.req r).openSlots < (s.req r).slotLimit then openSlot n r a len p s else respond busRetry s
  | none => respond busRetry s

/-- A READ presentation, in the decode order (Section 4.3). -/
def readPresented (r : ReqId) (a : Addr) (len : Nat) (s : State) : State :=
  if s.resetLow then respond busRetry s
  else if malformed a len then refuse r .malformed s
  else if !(s.req r).enabled then refuse r .disabled s
  else
    match matchingSlot r a len s with
    | some n => answerFromSlot n s
    | none =>
      match decode false r a len s with
      | .retry => respond busRetry s
      | .refused why => refuse r why s
      | .pass => readDecoded r a len none s
      | .translated p => readDecoded r a len (some p) s

/-- READ (R72 to R88, R109 to R120). -/
def execRead (r : ReqId) (a : Addr) (len : BitVec 7) (s : State) : Host.Outcome State Fault Refusal :=
  .next (readPresented r a len.toNat (beginEvent s))

/-! ### SYNC -/

/-- The SYNC procedure on one requester record: the answer and the record after it (R133, R134). -/
def syncAnswer (q : Requester) : BusCode × Requester :=
  match q.mark with
  | none =>
    if q.queuedWrites = 0 then
      if q.lossFlag then (.refused .lost, { q with lossFlag := false }) else (.done, q)
    else (.retry, { q with mark := some (q.taken, false) })
  | some (_, false) => (.retry, q)
  | some (_, true) =>
    if q.lossFlag then (.refused .lost, { q with lossFlag := false, mark := none })
    else (.done, { q with mark := none })

/-- A SYNC presentation, in the decode order (Section 4.3). -/
def syncPresented (r : ReqId) (s : State) : State :=
  if s.resetLow then respond busRetry s
  else if !(s.req r).enabled then refuse r .disabled s
  else if s.quiescing then respond busRetry s
  else
    let x := syncAnswer (s.req r)
    setReq r x.2 (respond { code := x.1 } s)

/-- SYNC (R78, R79, R133, R134). -/
def execSync (r : ReqId) (s : State) : Host.Outcome State Fault Refusal :=
  .next (syncPresented r (beginEvent s))

/-! ### The unassigned kind -/

/-- A presentation whose kind field carries code 3: REFUSED MALFORMED, counted (R74, R77, R86). While RESETn is low R74's
row, which gives this kind REFUSED (MALFORMED) alone, meets R88, which answers every presentation RETRY: R88 is followed, for
this kind as for the others (DESIGN CHOICE, log entry 22, unsafe). -/
def execUnassignedKind (r : ReqId) (s : State) : Host.Outcome State Fault Refusal :=
  let s := beginEvent s
  .next (if s.resetLow then respond busRetry s else refuse r .malformed s)

end Sys2Proof.Machine
end

