-- ==== Sys2Proof/Machine/Internal.lean ====
section
/-! DEFINITION. The steps that the rules place inside the event that brings them about (DRAIN_COMPLETE to
UNQUEUED_REOFFER). Each is the step itself where its condition stands, and nothing where it does not (DESIGN CHOICE, log entry 1, safe). -/

namespace Sys2Proof.Machine

/-- DRAIN_COMPLETE (R23). -/
def execDrainComplete (k : ApId) (s : State) : Host.Outcome State Fault Refusal := .next (drainTest k (beginEvent s))

/-- SETTLING_END (R17). -/
def execSettlingEnd (k : ApId) (s : State) : Host.Outcome State Fault Refusal := .next (settleTest k (beginEvent s))

/-- ENTRY_LEAVE (R99, R100): the head of a requester leaves, with the cascade it brings. -/
def execEntryLeave (r : ReqId) (s : State) : Host.Outcome State Fault Refusal :=
  let s := beginEvent s
  .next (if (head r s).elim false PostEntry.mayLeave then offerTags (leaveAll r s) else s)

/-- ENTRY_ELIGIBLE (R95, R96): a READY head completes its ZERO pieces, leaves when that was all, and offers the rest. -/
def execEntryEligible (r : ReqId) (s : State) : Host.Outcome State Fault Refusal :=
  let s := beginEvent s
  .next (if (head r s).elim false (·.state == .ready) then offerTags (leaveAll r s) else s)

/-- FENCE_MET (R112, R115). -/
def execFenceMet (n : SlotId) (s : State) : Host.Outcome State Fault Refusal :=
  let s := beginEvent s
  .next (if fenceDue n s then offerTags (meetFence n s) else s)

/-- ARBITER_GRANT (R142). -/
def execArbiterGrant (s : State) : Host.Outcome State Fault Refusal := .next (grants 12 (beginEvent s))

/-- WALK_START (R63, R64, R65). -/
def execWalkStart (s : State) : Host.Outcome State Fault Refusal := .next (startWalks (beginEvent s))

/-- JOB_START (R28), with the reads that the start lets the job issue (R31). -/
def execJobStart (s : State) : Host.Outcome State Fault Refusal := .next (runValidation (beginEvent s))

/-- VALIDATION_READ_ISSUE (R31, R141). -/
def execValidationReadIssue (s : State) : Host.Outcome State Fault Refusal :=
  .next (issueLine (issueLine (beginEvent s)))

/-- UNQUEUED_REOFFER (R61). -/
def execUnqueuedReoffer (s : State) : Host.Outcome State Fault Refusal := .next (offerTags (reoffer (beginEvent s)))

end Sys2Proof.Machine
end

