-- ==== Sys2Proof/Machine/Resets.lean ====
section
/-! DEFINITION. The hardware reset and its release (R175, R148), and the completion of the soft reset (R174). -/

namespace Sys2Proof.Machine

/-- RESETn goes low (R175): every block takes its reset values at once, without reports, and stays there. -/
def takeReset (s : State) : State :=
  { State.reset with pending := s.pending, resetLow := true, choices := s.choices }

/-- HARDWARE_RESET (R26, R46, R71, R88, R108, R126, R127, R155, R164, R175). -/
def execHardwareReset (s : State) : Host.Outcome State Fault Refusal := .next (takeReset s)

/-- RESETN_RELEASE (R148, R175): the tick counter starts from 0 and the ports take frames and presentations. -/
def execResetnRelease (s : State) : Host.Outcome State Fault Refusal :=
  let s := beginEvent s
  .next (if s.resetLow then { s with resetLow := false, tickCounter := 0 } else s)

/-- SOFT_RESET_COMPLETE (R174). -/
def execSoftResetComplete (s : State) : Host.Outcome State Fault Refusal := .next (softResetTest (beginEvent s))

end Sys2Proof.Machine
end

