-- ==== Sys2Proof/Machine/WalkEnd.lean ====
section
/-! DEFINITION. A walk examines a line (R65, R66) and ends (R67): a find (R68), an integrity finding (R69) or a read
failure (R70). -/

namespace Sys2Proof.Machine

/-! ### Examining entries -/

/-- What examining a line's entries comes to (R66): a find, a finding, or the next entry with its running offset. -/
inductive Examined where
  | found (index start : Nat) (e : RawEntry)
  | finding (f : Finding)
  | more (index offset : Nat)
  deriving DecidableEq, Repr

/-- Step 1 of R66: at a stride boundary that is not the starting index, the checkpoint place as the store now stands
must be valid and equal the running offset. -/
def boundaryHolds (x : Walk) (places : Checkpoints) (i o : Nat) : Bool :=
  if i % x.stride == 0 && !(i == x.startIndex) then places.toList.getD (i / x.stride) none == some o else true

/-- Examine the entries that a read returned, in index order (R66). -/
def examine (x : Walk) (places : Checkpoints) (target : Nat) : List RawEntry → Nat → Nat → Examined
  | [], i, o => .more i o
  | e :: es, i, o =>
    if boundaryHolds x places i o then
      match checkEntry x.listTag e with
      | some b => .finding { cause := .badEntry, sub := some b, index := i }
      | none =>
        if o ≤ target ∧ target < o + e.bytes then .found i o e
        else if i + 1 = x.entryCount then .finding { cause := .listChanged, sub := none, index := x.entryCount - 1 }
        else examine x places target es (i + 1) (o + e.bytes)
    else .finding { cause := .listChanged, sub := none, index := i }

/-! ### The end of a walk -/

/-- How a walk ends (R67). -/
inductive WalkOutcome where
  | find (x : Found)
  | finding (f : Finding)
  | readFailed (c : MemCause) (t : TagId)
  deriving DecidableEq, Repr

/-- A walk's outcome is current: its generation is the aperture's, the aperture translates, and it has not become FAULTED
while the walk ran (R67). By R21 the result of such a walk is dropped also after a RETIRE has taken the aperture on to
DRAINING, where R67's first words alone would call it current (DEDUCED, log entry 20, unsafe). -/
def currentWalk (w : WalkRequest) (s : State) : Bool :=
  !w.dropped && (s.ap w.aperture).generation == w.generation && (s.ap w.aperture).state.translates

/-- Fail a walk's waiters, in owner age order, each followed by the leavings it brings (R69, R70). -/
def failWaiters (os : List OwnerRef) (f : OwnerCore → Failure) (s : State) : State :=
  sweep (fun o s =>
    if os.contains o then
      match ownerCore o s with
      | some c => failTranslation o (f c) s
      | none => s
    else s) s

/-- A current find is installed and sets the resume point (R68). -/
def takeFind (x : Found) (s : State) : State :=
  updAp x.aperture (fun a => { a with resume := some { index := x.index, start := x.start } }) (install x s)

/-- The failure of a waiter on a DRAINING aperture's integrity finding (R69). -/
def findingFailure (f : Finding) (c : OwnerCore) : Failure :=
  { c.failureOf f.cause with sub := f.sub, extentIndex := some f.index }

/-- The failure of a waiter on a failed walk read (R70). -/
def readFailure (cause : MemCause) (t : TagId) (c : OwnerCore) : Failure :=
  { c.failureOf cause.toCause with tag := some t }

/-- What a walk's outcome does to the aperture, the cache and the waiters (R67 to R70). -/
def walkOutcome (w : WalkRequest) (r : WalkOutcome) (s : State) : State :=
  let k := w.aperture
  let waiters := w.waiters.map (·.1)
  if currentWalk w s then
    match r with
    | .find x => takeFind x s
    | .finding f =>
      if (s.ap k).state == .draining then failWaiters waiters (findingFailure f) s else faultAperture k f s
    | .readFailed c t => failWaiters waiters (readFailure c t) s
  else s

/-- The walk on an engine ends (R67): its request leaves, a marked walk is uncounted, DRAINING is tested, the outcome is
taken when current, and the waiters that remain and the unqueued pieces are offered. -/
def endWalk (e : EngineId) (r : WalkOutcome) (s : State) : State :=
  match s.missQueue.find? (·.onEngine e) with
  | none => s
  | some w =>
    let s := { s with missQueue := s.missQueue.filter fun w => !(w.onEngine e) }
    let s := if w.settlingMark then uncount w.aperture s else s
    let s := drainTest w.aperture s
    let s := walkOutcome w r s
    reofferWith (w.waiters.map (·.1)) [] s

/-- The find of a walk (R66 step 3). -/
def foundExtent (w : WalkRequest) (index start : Nat) (e : RawEntry) : Found where
  aperture := w.aperture
  generation := w.generation
  index := index
  start := start
  length := e.bytes
  target := e.target
  kind := e.kind

/-- A walk's line read is answered OK (R65, R66): the entries are examined, and the walk ends or reads its next line
under the same tag. -/
def walkLine (e : EngineId) (op : Op) (bytes : List Byte) (s : State) : State :=
  match s.missQueue.find? (·.onEngine e) with
  | none => s
  | some w =>
    match w.walk with
    | none => s
    | some x =>
      match examine x (s.places w.aperture) w.target (entriesOf (op.length / 16) bytes) x.index x.offset with
      | .found i o en => endWalk e (.find (foundExtent w i o en)) s
      | .finding f => endWalk e (.finding f) s
      | .more i o =>
        let x := { x with index := i, offset := o }
        issue (engineTag e) (walkOp w x)
          { s with missQueue := updFirst (·.onEngine e) (fun w => { w with walk := some x }) s.missQueue }

end Sys2Proof.Machine
end

