-- ==== Sys2Proof/Machine/Responses.lean ====
section
/-! DEFINITION. Memory responses (Section 8.5): OK (R144), BUSY (R145), ERROR (R147), late and stray responses (R150,
R151), and responses to operations whose owner has gone (R152). -/

namespace Sys2Proof.Machine

/-! ### Outcomes handed to owners -/

/-- A write piece is answered OK (R97): it is WRITTEN, and with every piece WRITTEN an ISSUED entry is DONE. -/
def entryWritten (r : ReqId) (q : Seq) (i : Nat) (s : State) : State :=
  let s := updPiece (.entry r q) i (fun p => { p with state := .written }) s
  leaveAll r (updEntry r q (fun e => if e.state == .issued && e.allWritten then { e with state := .done } else e) s)

/-- A read piece is answered OK (R116): it is READ with its bytes, and a READING slot with every piece READ is READY; a
marked slot with nothing left to read is uncounted (R123). -/
def slotRead (n : SlotId) (i : Nat) (bytes : List Byte) (s : State) : State :=
  slotUncount n (becomeReady n (updPiece (.slot n) i (fun p => { p with state := .read bytes }) s))

/-- A cancelled operation has ended: its piece, if its owner still exists, becomes ENDED, so that a FAILED entry may
leave and a marked slot be uncounted (R98, R117, R123, R152). -/
def endCancelled (op : Op) (s : State) : State :=
  match op.owner with
  | some (.piece (.entry r q) i) => leaveAll r (updPiece (.entry r q) i (fun p => { p with state := .ended }) s)
  | some (.piece (.slot n) i) => slotUncount n (updPiece (.slot n) i (fun p => { p with state := .ended }) s)
  | _ => s

/-- An operation ends OK (R144), with the bytes that its response carries on their lanes (R138). -/
def opOk (op : Op) (lanes : Lanes) (s : State) : State :=
  match op.owner with
  | some (.walk e) => walkLine e op (bytesOfLanes op.address op.length lanes) s
  | some (.line k) => lineOk k (bytesOfLanes op.address op.length lanes) s
  | some (.piece (.entry r q) i) => entryWritten r q i s
  | some (.piece (.slot n) i) => slotRead n i (bytesOfLanes op.address op.length lanes) s
  | none => s

/-- The failure of a piece whose operation has failed (R98, R102, R117, R118). -/
def pieceFailure (o : OwnerRef) (i : Nat) (c : MemCause) (t : TagId) (s : State) : Failure :=
  match ownerCore o s with
  | some x =>
    let p := x.pieces.find? (·.index == i)
    { x.failureOf c.toCause with
      tag := some t
      extentIndex := p.bind (·.extentIndex)
      windowOffset := x.place.map fun w => w.offset + (p.elim 0 (·.offset)) }
  | none => { cause := c.toCause, tag := some t }

/-- An operation ends in failure (R145, R147, R149). -/
def opFailed (op : Op) (c : MemCause) (t : TagId) (s : State) : State :=
  match op.owner with
  | some (.walk e) => endWalk e (.readFailed c t) s
  | some (.line k) => lineFailed k c t s
  | some (.piece (.entry r q) i) =>
    leaveAll r (failOwner (.entry r q) (pieceFailure (.entry r q) i c t s) s)
  | some (.piece (.slot n) i) => failOwner (.slot n) (pieceFailure (.slot n) i c t s) s
  | none => s

/-! ### Taking a response -/

/-- A response is taken by its tag's state (R138): a stray response posts LATE_RESPONSE and changes no tag (R151), a
late one frees its tag and posts LATE_RESPONSE (R150), and the response to an OUTSTANDING operation frees its tag and
is acted on, the freed tag being offered afterwards (R144). -/
def takeResponse (t : TagId) (act : Op → State → State) (s : State) : State :=
  match s.tag t with
  | .free => post (strayReport t) s
  | .quarantined f => offerTags (post (lateReport t f) (setTag t .free s))
  | .outstanding op =>
    let s := setTag t .free s
    offerTags (if op.cancelled then endCancelled op s else act op s)

/-- A response that arrives while RESETn is low: every tag is FREE, and whether it is seen is free (DESIGN
CHOICE, log entry 4, safe). -/
def responseInReset (t : TagId) (s : State) : State :=
  let taken := Config.responseTakenInReset s.choices
  let s := { s with choices := s.choices + 1 }
  if taken then post (strayReport t) s else s

/-- RESPONSE_OK (R144, R150, R151, R152). -/
def execResponseOk (t : TagId) (lanes : Lanes) (s : State) : Host.Outcome State Fault Refusal :=
  let s := beginEvent s
  .next (if s.resetLow then responseInReset t s else takeResponse t (fun op s => opOk op lanes s) s)

/-- BUSY to an operation that is not cancelled (R145): the retry count rises and is compared with the retry budget. -/
def opBusy (t : TagId) (op : Op) (s : State) : State :=
  let op := { op with retries := op.retries + 1 }
  if s.settings.retryBudget ≠ 0 ∧ s.settings.retryBudget < op.retries then opFailed op .retryExhausted t s
  else park op s

/-- RESPONSE_BUSY (R145, R150, R151, R152). -/
def execResponseBusy (t : TagId) (s : State) : Host.Outcome State Fault Refusal :=
  let s := beginEvent s
  .next (if s.resetLow then responseInReset t s else takeResponse t (opBusy t) s)

/-- RESPONSE_ERROR (R147, R150, R151, R152); every code but OK and BUSY is taken as ERROR (R138). -/
def execResponseError (t : TagId) (_code : Nat) (s : State) : Host.Outcome State Fault Refusal :=
  let s := beginEvent s
  .next (if s.resetLow then responseInReset t s else takeResponse t (fun op s => opFailed op .memoryError t s) s)

end Sys2Proof.Machine
end

