-- ==== Sys2Proof/Machine/Time.lean ====
section
/-! DEFINITION. The time base (R148) and the ends of intervals: response timers (R149), discard timers (R119) and backoffs
(R146). -/

namespace Sys2Proof.Machine

/-! ### Expiries -/

/-- The response timer of a tag expires (R149): the operation ends with RESPONSE_TIMEOUT, its tag is QUARANTINED with
the operation's report fields, and the outcome goes to its owner. -/
def expireTag (t : TagId) (s : State) : State :=
  match s.tag t with
  | .outstanding op =>
    let s := setTag t (.quarantined op.fields) s
    offerTags (if op.cancelled then endCancelled op s else opFailed op .responseTimeout t s)
  | _ => s

/-- RESPONSE_TIMEOUT: the expiry of a tag's response timer; a tag that is not OUTSTANDING runs none (R149;
DESIGN CHOICE, log entry 7, safe). -/
def execResponseTimeout (t : TagId) (s : State) : Host.Outcome State Fault Refusal :=
  .next (expireTag t (beginEvent s))

/-- The READ_DISCARDED of a slot (R119); its window offset is the slot's own (DEDUCED, log entry 14, unsafe). -/
def discardReport (c : Slot) : Report where
  kind := .readDiscarded
  cause := c.core.failure.map (·.cause)
  requester := some c.core.requester
  address := some c.core.address
  aperture := c.core.place.map (·.aperture)
  windowOffset := c.core.place.map (·.offset)
  generation :=
    match c.core.failure with
    | some f => f.generation
    | none => c.core.generation

/-- The discard timer of a slot expires (R119): READ_DISCARDED is posted and the slot is freed. -/
def expireSlot (n : SlotId) (s : State) : State :=
  match s.slot n with
  | some c => if c.timer.isSome then freeSlot n (post (discardReport c) s) else s
  | none => s

/-- DISCARD_EXPIRY: the expiry of a slot's discard timer; a stopped timer never expires (R119). -/
def execDiscardExpiry (n : SlotId) (s : State) : Host.Outcome State Fault Refusal :=
  .next (expireSlot n (beginEvent s))

/-! ### Backoffs -/

/-- The engine of a walk read that waits, its backoff ended. -/
def waitingWalk (e : EngineId) (s : State) : Option Op := waitingOp (.walk e) s

/-- A walk read whose backoff has ended is issued again at once under its engine's own tag (R141, R146). -/
def reissueWalk (e : EngineId) (s : State) : State :=
  match waitingWalk e s with
  | some op => if (s.tag (engineTag e)).isFree then issue (engineTag e) op (unpark (.walk e) s) else s
  | none => s

/-- Walk reads are issued again, and the other operations compete for the tags of their classes (R146). -/
def resumeOps (s : State) : State := offerTags (reissueWalk 1 (reissueWalk 0 s))

/-- An operation of an owner is in BACKOFF. -/
def inBackoff (o : OpName) (s : State) : Bool := s.parked.any fun p => p.op.owner == some o && !p.waiting

/-- BACKOFF_END: one operation's backoff ends and it begins to wait for a tag of its class (R146). -/
def execBackoffEnd (o : OpName) (s : State) : Host.Outcome State Fault Refusal :=
  let s := beginEvent s
  .next (if inBackoff o s then
    resumeOps { s with parked := s.parked.map fun p => if p.op.owner == some o then { p with waiting := true } else p }
  else s)

/-! ### The tick -/

/-- A tick lowers a tag's running response timer by one (R149). -/
def TagState.lower : TagState → TagState
  | .outstanding op => .outstanding { op with timer := op.timer - 1 }
  | x => x

/-- A tick lowers every running timer by one (R119, R149). -/
def lowerTimers (s : State) : State :=
  { s with
    tags := s.tags.map TagState.lower
    slots := s.slots.map fun x => x.map fun c => { c with timer := c.timer.map (· - 1) } }

/-- Whether an interval ends at this tick: a timer stands at 0, or an operation is in BACKOFF. -/
def isDue (x : Expiry) (s : State) : Bool :=
  match x with
  | .response t => match s.tag t with | .outstanding op => op.timer == 0 | _ => false
  | .discard n => (s.slot n).elim false fun c => c.timer == some 0
  | .backoffs => s.parked.any fun p => !p.waiting

/-- Every interval end there can be. -/
def allExpiries : List Expiry :=
  allTags.map Expiry.response ++ (List.finRange 8).map Expiry.discard ++ [.backoffs]

/-- Take one interval end, if it is still due (a timer stopped since never expires). -/
def takeExpiry (x : Expiry) (s : State) : State :=
  if isDue x s then
    match x with
    | .response t => expireTag t s
    | .discard n => expireSlot n s
    | .backoffs => resumeOps { s with parked := s.parked.map fun p => { p with waiting := true } }
  else s

/-- Take the interval ends of a tick, in the order given. -/
def takeExpiries (xs : List Expiry) (s : State) : State := xs.foldl (fun s x => takeExpiry x s) s

/-- A tick is produced (R148): the counter is at 0, every running timer falls by one (R119, R149), and the intervals
that end at this tick end. When more than one ends, the order is a free value (DESIGN CHOICE, log entry 3,
safe). -/
def produceTick (s : State) : State :=
  let s := lowerTimers { s with tickCounter := 0 }
  let due := allExpiries.filter fun x => isDue x s
  if due.length ≤ 1 then takeExpiries due s
  else takeExpiries (Config.tickOrder s.choices ++ due) { s with choices := s.choices + 1 }

/-- TICK (R148). While RESETn is low no tick is produced. -/
def execTick (s : State) : Host.Outcome State Fault Refusal :=
  let s := beginEvent s
  .next (if s.resetLow then s else produceTick s)

/-- One cycle of MCLK with no command: the tick counter advances, and a tick is produced as it passes from 1,023 to 0
(R148). While RESETn is low the counter is 0. -/
def clockCycle (s : State) : State :=
  let s := beginEvent s
  if s.resetLow then s
  else if s.tickCounter < 1023 then { s with tickCounter := s.tickCounter + 1 }
  else produceTick s

end Sys2Proof.Machine
end

