-- ==== Sys2Proof/Machine/Dispatch.lean ====
section
/-! DEFINITION. The dispatch of a command to its meaning: one arm per constructor of Instr. -/

namespace Sys2Proof.Machine

def exec (i : Instr) (s : State) : Host.Outcome State Fault Refusal :=
  match i with
  | .write r a len lanes enables => Sys2Proof.Machine.execWrite r a len lanes enables s
  | .read r a len => Sys2Proof.Machine.execRead r a len s
  | .sync r => Sys2Proof.Machine.execSync r s
  | .unassignedKind r => Sys2Proof.Machine.execUnassignedKind r s
  | .responseOk t lanes => Sys2Proof.Machine.execResponseOk t lanes s
  | .responseBusy t => Sys2Proof.Machine.execResponseBusy t s
  | .responseError t code => Sys2Proof.Machine.execResponseError t code s
  | .responseTimeout t => Sys2Proof.Machine.execResponseTimeout t s
  | .discardExpiry n => Sys2Proof.Machine.execDiscardExpiry n s
  | .backoffEnd o => Sys2Proof.Machine.execBackoffEnd o s
  | .tick => Sys2Proof.Machine.execTick s
  | .fetch len crc clocks => Sys2Proof.Machine.execFetch len crc clocks s
  | .ident args => Sys2Proof.Machine.execIdent args s
  | .getStatus args => Sys2Proof.Machine.execGetStatus args s
  | .setGlobal args => Sys2Proof.Machine.execSetGlobal args s
  | .getRequester args => Sys2Proof.Machine.execGetRequester args s
  | .setRequester args => Sys2Proof.Machine.execSetRequester args s
  | .load args => Sys2Proof.Machine.execLoad args s
  | .rebind args => Sys2Proof.Machine.execRebind args s
  | .retire args => Sys2Proof.Machine.execRetire args s
  | .setAccess args => Sys2Proof.Machine.execSetAccess args s
  | .query args => Sys2Proof.Machine.execQuery args s
  | .invalidate args => Sys2Proof.Machine.execInvalidate args s
  | .popReport args => Sys2Proof.Machine.execPopReport args s
  | .reset args => Sys2Proof.Machine.execReset args s
  | .incompleteFrame bytes => Sys2Proof.Machine.execIncompleteFrame bytes s
  | .unknownCommand code args => Sys2Proof.Machine.execUnknownCommand code args s
  | .hardwareReset => Sys2Proof.Machine.execHardwareReset s
  | .resetnRelease => Sys2Proof.Machine.execResetnRelease s
  | .softResetComplete => Sys2Proof.Machine.execSoftResetComplete s
  | .drainComplete k => Sys2Proof.Machine.execDrainComplete k s
  | .settlingEnd k => Sys2Proof.Machine.execSettlingEnd k s
  | .entryLeave r => Sys2Proof.Machine.execEntryLeave r s
  | .entryEligible r => Sys2Proof.Machine.execEntryEligible r s
  | .fenceMet n => Sys2Proof.Machine.execFenceMet n s
  | .arbiterGrant => Sys2Proof.Machine.execArbiterGrant s
  | .walkStart => Sys2Proof.Machine.execWalkStart s
  | .jobStart => Sys2Proof.Machine.execJobStart s
  | .validationReadIssue => Sys2Proof.Machine.execValidationReadIssue s
  | .unqueuedReoffer => Sys2Proof.Machine.execUnqueuedReoffer s
  | .badFrame code args crc => Sys2Proof.Machine.execBadFrame code args crc s

end Sys2Proof.Machine
end

