-- ==== Sys2Proof/Safety.lean ====
section
/-! DEFINITION. The laws the spec states of every reachable state, as predicates on State: what a safe run keeps. -/

namespace Sys2Proof.Machine

/-- No two apertures that are not FREE have windows sharing any address (R2). -/
def windowsDisjoint (s : State) : Prop :=
  ∀ j k : ApId, j ≠ k → (s.ap j).claims = true → (s.ap k).claims = true →
    (s.ap j).windowBase.toNat + (s.ap j).windowSize ≤ (s.ap k).windowBase.toNat ∨
    (s.ap k).windowBase.toNat + (s.ap k).windowSize ≤ (s.ap j).windowBase.toNat

/-- The ranks of the 32 cache entries are the numbers 0 to 31, one each (R49). -/
def ranksArePermutation (s : State) : Prop :=
  (∀ i : Fin 32, (s.cached i).rank < 32) ∧
  ∀ i j : Fin 32, i ≠ j → (s.cached i).rank ≠ (s.cached j).rank

/-- The capacities: 16 reports and a dropped count of at most 255 (R156, R159), 16 post entries (R89), 4 jobs (R27) and
8 walk requests (R59). -/
def queuesBounded (s : State) : Prop :=
  s.reports.length ≤ 16 ∧ s.dropped ≤ 255 ∧ s.postQueue.length ≤ 16 ∧ s.jobs.length ≤ 4 ∧ s.missQueue.length ≤ 8

/-- The settings and limits lie in their ranges (R153, Section 7.1), and the saturating counts at or below their maximum
(R6, R86). -/
def settingsInRange (s : State) : Prop :=
  (s.settings.retryBudget ≤ 63 ∧ 1 ≤ s.settings.responseLimit ∧ s.settings.responseLimit ≤ 255 ∧
    1 ≤ s.settings.discardInterval ∧ s.settings.discardInterval ≤ 255) ∧
  (∀ r : ReqId, 1 ≤ (s.req r).postedLimit ∧ (s.req r).postedLimit ≤ 16 ∧
    1 ≤ (s.req r).slotLimit ∧ (s.req r).slotLimit ≤ 4 ∧ (s.req r).refusedCount ≤ 65535) ∧
  ∀ k : ApId, (s.ap k).faultCount ≤ 255

/-- The class of an operation by its owner (R139, R140). -/
def nameClass : OpName → TagClass
  | .walk _ => .walk
  | .line _ => .validation
  | .piece _ _ => .data

/-- An operation is of its owner's class. -/
def Op.classed (op : Op) : Prop := ∀ o, op.owner = some o → nameClass o = op.cls

/-- Every operation under a tag is of that tag's class, and every operation is of its owner's class (R139, R141). -/
def opsInClass (s : State) : Prop :=
  (∀ t op, s.tag t = .outstanding op → op.cls = tagClass t ∧ op.classed) ∧ ∀ p ∈ s.parked, p.op.classed

/-- The queued entries of a requester, oldest first. -/
def entriesOfReq (r : ReqId) (s : State) : List PostEntry := s.postQueue.filter fun e => e.core.requester == r

/-- The entries of one requester carry the consecutive sequence numbers after the completed sequence, up to and
including the taken sequence, each once, and their number is the queued write count (R91, R131). -/
def sequencesFollow (s : State) : Prop :=
  s.postQueue.length ≤ 16 ∧
  ∀ r : ReqId,
    (entriesOfReq r s).map (·.sequence) =
      (List.range (s.req r).queuedWrites).map (fun i => (s.req r).completed + BitVec.ofNat 8 (i + 1)) ∧
    (s.req r).taken = (s.req r).completed + BitVec.ofNat 8 (s.req r).queuedWrites

/-- The number of occupied slots that carry a requester number. -/
def slotsOfReq (r : ReqId) (s : State) : Nat :=
  ((occupied s).filter fun n => (s.slot n).elim false fun c => c.core.requester == r).length

/-- A requester's open slot count is the number of its occupied slots, and no two occupied slots carry the same match
key (R109). -/
def slotsCounted (s : State) : Prop :=
  (∀ r : ReqId, (s.req r).openSlots = slotsOfReq r s) ∧
  ∀ m n : SlotId, ∀ c d : Slot, s.slot m = some c → s.slot n = some d →
    c.core.requester = d.core.requester → c.core.address = d.core.address → c.core.length = d.core.length → m = n

/-- The number of post entries and occupied slots attributed to an aperture. -/
def attributedTo (k : ApId) (s : State) : Nat :=
  (s.postQueue.filter fun e => e.core.attributed k).length +
  ((occupied s).filter fun n => (s.slot n).elim false fun c => c.core.attributed k).length

/-- An aperture's in-flight count is the number of post entries and occupied slots attributed to it, and a FREE or
LOADING aperture has none (R5, R12). -/
def inFlightCounted (s : State) : Prop :=
  ∀ k : ApId, (s.ap k).inFlight = attributedTo k s ∧
    ((s.ap k).state = .free ∨ (s.ap k).state = .loading → attributedTo k s = 0)

/-- The pending list is present exactly while the aperture is REBINDING with phase VALIDATING (R1, R14 to R16). -/
def pendingListsPlaced (s : State) : Prop :=
  ∀ k : ApId, (s.ap k).pendingList.isSome = true ↔ (s.ap k).state = .rebinding .validating

/-- No reset input and no quiescing: the port takes presentations and commands, and no reset can complete. -/
def running (s : State) : Prop := s.resetLow = false ∧ s.quiescing = false

end Sys2Proof.Machine
end

