-- ==== Sys2Proof/Certificates/Slice0/Obligations.lean ====
section
/-! DEFINITION. The statements about the model, one definition each, after the vocabulary they share. A statement whose
conclusion is an equation gives the whole next state, so everything it does not name stands as it was. -/

namespace Sys2Proof.Claims

open Sys2Proof Sys2Proof.Machine

/-! ### What an answer leaves -/

/-- An event that drives nothing and changes nothing. -/
def unmoved (s : State) : State := { s with out := {} }

/-- A presentation is answered, and nothing else happens. In every response but DATA the poison indicator is clear: the
model's choice (DESIGN CHOICE, log entry 19). -/
def busAnswered (x : BusResponse) (s : State) : State := { s with out := { bus := some x } }

/-- A presentation is answered RETRY and leaves nothing (R75). -/
def retried (s : State) : State := busAnswered { code := .retry } s

/-- A presentation is refused at decode: the refused count of its requester rises, stopping at 65,535 (R76, R86). -/
def refusedAt (r : ReqId) (why : RefusalReason) (s : State) : State :=
  setReq r { s.req r with refusedCount := min 65535 ((s.req r).refusedCount + 1) }
    (busAnswered { code := .refused why } s)

/-- A command frame of some argument bytes is answered: its answer is the pending response, and 0xFF has been driven
while it was clocked in (R165, R167). -/
def framed (code : Byte) (args : List Byte) (a : Answer) (results : List Byte) (s : State) : State :=
  { s with
    response := some { answer := a, command := code, results := results }
    out := { mgt := List.replicate (3 + args.length) 0xFF } }

/-! ### Requests on their way -/

/-- A presentation that passes steps 1 and 2 of the decode order: neither malformed nor of a disabled requester. -/
structure Passes (r : ReqId) (a : Addr) (len : Nat) (s : State) : Prop where
  up : s.resetLow = false
  formed : malformed a len = false
  enabled : (s.req r).enabled = true

/-- No occupied slot carries the requester, address and length (R110). -/
def Unmatched (r : ReqId) (a : Addr) (len : Nat) (s : State) : Prop :=
  ∀ (n : SlotId) (c : Slot), s.slot n = some c →
    ¬(c.core.requester = r ∧ c.core.address = a ∧ c.core.length = len)

/-- An address lies in an aperture's claimed window (R2, R80). -/
def Inside (a : Addr) (k : ApId) (s : State) : Prop :=
  (s.ap k).state ≠ .free ∧ (s.ap k).windowBase.toNat ≤ a.toNat ∧
    a.toNat < (s.ap k).windowBase.toNat + (s.ap k).windowSize

/-- An address lies in no claimed window (R83). -/
def Outside (a : Addr) (s : State) : Prop := ∀ k : ApId, ¬Inside a k s

/-- The requester may make this kind of access through the aperture (R81). -/
def Permitted (write : Bool) (r : ReqId) (x : Aperture) : Prop :=
  x.mask.getLsbD r.val = true ∧ (if write then x.writeAllowed else x.readAllowed) = true

/-- The path of an admitted request (R80 to R83): pass-through, or through an aperture at a window offset. -/
def Course (write : Bool) (r : ReqId) (a : Addr) (len : Nat) (p : Option Place) (s : State) : Prop :=
  match p with
  | none => Outside a s ∧ (s.req r).confined = false
  | some x =>
    Inside a x.aperture s ∧ (s.ap x.aperture).state.serves = true ∧ Permitted write r (s.ap x.aperture) ∧
    x.offset = a.toNat - (s.ap x.aperture).windowBase.toNat ∧ x.offset + len ≤ (s.ap x.aperture).mappedLength

/-- A request that decode admits as far as the resource check (steps 1 to 5). -/
structure Admitted (write : Bool) (r : ReqId) (a : Addr) (len : Nat) (p : Option Place) (s : State) : Prop where
  passes : Passes r a len s
  going : s.quiescing = false
  disjoint : windowsDisjoint s
  course : Course write r a len p s

/-- The post queue and the requester's posted limit have room for a write (R84). -/
def WriteRoom (r : ReqId) (s : State) : Prop :=
  s.postQueue.length < 16 ∧ (s.req r).queuedWrites < (s.req r).postedLimit

/-- A slot is EMPTY and the requester's slot limit has room (R85). -/
def ReadRoom (r : ReqId) (s : State) : Prop :=
  (∃ n : SlotId, s.slot n = none) ∧ (s.req r).openSlots < (s.req r).slotLimit

/-! ### Quiet states -/

/-- The validation engine has no read to issue: no job, or a running one that has recorded a failure, has two lines
issued and not processed, or has issued its last line (R31); and no line's read, its backoff ended, waits for a tag. -/
def NoLineDue (s : State) : Prop :=
  s.jobs = [] ∨ ∃ j js v, s.jobs = j :: js ∧ j.running = true ∧ s.validation = some v ∧
    (v.failure ≠ none ∨ 2 ≤ v.unprocessed ∨
      (j.list.address.toNat + 16 * (j.list.count - 1)) / 64 - j.list.address.toNat / 64 < v.nextIssue) ∧
    ∀ p ∈ s.parked, p.waiting = true → ∀ k, p.op.owner ≠ some (.line k)

/-- Nothing waits for a tag, a walk engine or the validation engine, and no reset can complete: freeing or offering a
tag sets nothing in motion. -/
structure NothingWaits (s : State) : Prop where
  going : s.quiescing = false
  walks : ∀ w ∈ s.missQueue, w.walk.isSome = true
  jobs : NoLineDue s
  writes : waitingWrite s = none
  reads : waitingRead s = none

/-- No traffic at all: every queue is empty, every slot EMPTY, no operation parked, no reset in progress. -/
structure Idle (s : State) : Prop where
  up : s.resetLow = false
  going : s.quiescing = false
  entries : s.postQueue = []
  slots : ∀ n : SlotId, s.slot n = none
  misses : s.missQueue = []
  unqueued : s.unqueued = []
  jobs : s.jobs = []
  parked : s.parked = []

/-- A FREE tag of a class, and the lowest-numbered one (R142). -/
def Lowest (c : TagClass) (t : TagId) (s : State) : Prop :=
  tagClass t = c ∧ s.tag t = .free ∧ ∀ u : TagId, u < t → tagClass u = c → s.tag u ≠ .free

/-- No tag of a class is FREE. -/
def NoneFree (c : TagClass) (s : State) : Prop := ∀ t : TagId, tagClass t = c → s.tag t ≠ .free

/-- The one piece of a pass-through request (R10). -/
def wholePiece (a : Addr) (len : Nat) (x : PieceState) : Piece where
  index := 0
  offset := 0
  length := len
  extentIndex := none
  kind := .map
  target := some a
  generation := none
  state := x

/-- The records that no traffic reaches: settings, pending response, validation queue and engine, tick counter, waiting
commands, reset and quiescing. -/
structure Untouched (s t : State) : Prop where
  settings : t.settings = s.settings
  response : t.response = s.response
  jobs : t.jobs = s.jobs
  validation : t.validation = s.validation
  tickCounter : t.tickCounter = s.tickCounter
  pending : t.pending = s.pending
  resetLow : t.resetLow = s.resetLow
  quiescing : t.quiescing = s.quiescing

/-- What the freeing of a slot leaves (R111): the slot EMPTY, no other changed, nothing waiting on its translation, the
counts one lower, its operations in BACKOFF ended and those OUTSTANDING abandoned to the port. Its aperture's record is
given while that is ACTIVE; the reports stand unless the freeing lets the aperture end draining or settling. -/
structure Freed (n : SlotId) (c : Slot) (s t : State) : Prop where
  slot : t.slot n = none
  others : ∀ m, m ≠ n → t.slot m = s.slot m
  requester : ∀ r, t.req r =
    if r = c.core.requester then { s.req r with openSlots := (s.req r).openSlots - 1 } else s.req r
  entries : t.postQueue = s.postQueue
  untouched : Untouched s t
  detached : (∀ w ∈ t.missQueue, ∀ x ∈ w.waiters, x.1 ≠ .slot n) ∧ ∀ u ∈ t.unqueued, u.owner ≠ .slot n
  abandoned : ∀ u op i, s.tag u = .outstanding op → op.owner = some (.piece (.slot n) i) →
    t.tag u = .outstanding { op with cancelled := true, owner := none }
  tags : ∀ u, (∀ op i, s.tag u = .outstanding op → op.owner ≠ some (.piece (.slot n) i)) → t.tag u = s.tag u
  parked : ∀ p, p ∈ t.parked ↔ p ∈ s.parked ∧ ∀ i, p.op.owner ≠ some (.piece (.slot n) i)
  unplaced : ∀ k, (c.core.place.map (·.aperture)) ≠ some k → t.ap k = s.ap k
  active : ∀ x, c.core.place = some x → (s.ap x.aperture).state = .active →
    t.ap x.aperture = { s.ap x.aperture with
      inFlight := (s.ap x.aperture).inFlight - 1
      settling := if c.core.settlingMark then (s.ap x.aperture).settling - 1 else (s.ap x.aperture).settling }
  quiet : (∀ x, c.core.place = some x →
      (s.ap x.aperture).state ≠ .draining ∧ (s.ap x.aperture).state ≠ .rebinding .settling) →
    t.reports = s.reports ∧ t.dropped = s.dropped

end Sys2Proof.Claims

open Sys2Proof Sys2Proof.Machine Sys2Proof.Claims

/-! ## The queue of commands and the resets -/

/-- A step runs the command at the front of the queue, with the queue's rest. With no command waiting it is one cycle of
MCLK: the tick counter advances, and a tick is produced as it passes from 1,023 to 0 (R148). That an idle step is a clock
cycle is the model's choice (log entry 5). -/
def Obligations.StepRunsTheFrontCommand : Prop :=
  (∀ (i : Instr) (rest : List Instr) (s : State),
    step { s with pending := i :: rest } = exec i { s with pending := rest }) ∧
  ∀ s : State, s.pending = [] →
    (s.resetLow = true → step s = .next (unmoved s)) ∧
    (s.resetLow = false → s.tickCounter < 1023 →
      step s = .next { unmoved s with tickCounter := s.tickCounter + 1 }) ∧
    (s.resetLow = false → 1023 ≤ s.tickCounter → step s = exec .tick s)

/-- Every command is carried out to a next state in every state, and leaves the waiting commands as they are. -/
def Obligations.EveryCommandIsCarriedOut : Prop :=
  ∀ (i : Instr) (s : State), ∃ t, exec i s = .next t ∧ t.pending = s.pending

/-- The reset state holds the reset value of every record (R1, R27, R41, R46, R59, R86, R89, R109, R127, R139, R148,
R153, R156, R159). -/
def Obligations.ResetValues : Prop :=
  let s := State.reset
  (∀ k : ApId,
    let a := s.ap k
    a.state = .free ∧ a.windowBase = 0 ∧ a.windowSize = 0 ∧ a.listAddress = 0 ∧ a.entryCount = 0 ∧ a.listTag = 0 ∧
    a.mappedLength = 0 ∧ a.readAllowed = false ∧ a.writeAllowed = false ∧ a.mask = 0 ∧ a.generation = 0 ∧
    a.resume = none ∧ a.stride = 1 ∧ a.inFlight = 0 ∧ a.settling = 0 ∧ a.pendingList = none ∧ a.faultCount = 0) ∧
  (∀ (k : ApId) (i : Fin 32), (s.places k)[i] = none) ∧
  (∀ i : Fin 32,
    let e := s.cached i
    e.valid = false ∧ e.aperture = 0 ∧ e.generation = 0 ∧ e.extentIndex = 0 ∧ e.start = 0 ∧ e.length = 0 ∧
    e.target = 0 ∧ e.kind = .map ∧ e.rank = i.val) ∧
  (∀ n : SlotId, s.slot n = none) ∧
  (∀ r : ReqId, (s.req r).enabled = true ∧ (s.req r).confined = false ∧ (s.req r).postedLimit = 4 ∧
    (s.req r).slotLimit = 2 ∧ (s.req r).readFailureMode = .refuse ∧ (s.req r).refusedCount = 0 ∧
    (s.req r).taken = 0 ∧ (s.req r).completed = 0 ∧ (s.req r).mark = none ∧ (s.req r).lossFlag = false ∧
    (s.req r).queuedWrites = 0 ∧ (s.req r).openSlots = 0) ∧
  (∀ t : TagId, s.tag t = .free) ∧
  s.settings.retryBudget = 15 ∧ s.settings.responseLimit = 64 ∧ s.settings.discardInterval = 32 ∧
  s.settings.attention = false ∧ s.missQueue = [] ∧ s.unqueued = [] ∧ s.jobs = [] ∧ s.validation = none ∧ s.postQueue = [] ∧ s.parked = [] ∧
  s.lastGrant = .read ∧ s.reports = [] ∧ s.dropped = 0 ∧ s.tickCounter = 0 ∧ s.quiescing = false ∧ s.response = none

/-- While RESETn is low every presentation is answered RETRY, no frame is taken, and no tick is produced (R88, R148,
R175). That the unassigned kind is answered RETRY too, R88 over the row of R74, is the model's choice (log entry 22).
That the poison indicator is clear with RETRY, as the whole response has it, is the model's choice (log entry 19). -/
def Obligations.NothingIsTakenWhileResetIsLow : Prop :=
  ∀ s : State, s.resetLow = true →
    (∀ r a len lanes en, exec (.write r a len lanes en) s = .next (retried s)) ∧
    (∀ r a len, exec (.read r a len) s = .next (retried s)) ∧
    (∀ r, exec (.sync r) s = .next (retried s) ∧ exec (.unassignedKind r) s = .next (retried s)) ∧
    (∀ args, ∀ i ∈ [Instr.ident args, .getStatus args, .setGlobal args, .getRequester args, .setRequester args,
        .load args, .rebind args, .retire args, .setAccess args, .query args, .invalidate args, .popReport args,
        .reset args], exec i s = .next (unmoved s)) ∧
    (∀ len crc clocks, exec (.fetch len crc clocks) s = .next (unmoved s)) ∧
    (∀ bs, exec (.incompleteFrame bs) s = .next (unmoved s)) ∧
    (∀ v args, exec (.unknownCommand v args) s = .next (unmoved s)) ∧
    (∀ v args crc, exec (.badFrame v args crc) s = .next (unmoved s)) ∧
    exec .tick s = .next (unmoved s)

/-- HARDWARE_RESET sets every block to its reset values at once, without reports, RESETn held low (R26, R155, R164,
R175); waiting commands and the model's own counter of free values stand. RESETN_RELEASE lets the ports take events, the
tick counter starting from 0 (R148). SOFT_RESET_COMPLETE, quiescing with the post queue empty and no tag OUTSTANDING, sets
every block to its reset values, the report queue holding RESET_DONE alone, and the pending response and the tick counter
stand (R167, R174). Where their conditions do not stand, the last two do nothing (as commands: the model's choice, log entry
1). -/
def Obligations.ResetsSetEveryBlock : Prop :=
  ∀ s : State,
    exec .hardwareReset s =
      .next { State.reset with pending := s.pending, choices := s.choices, resetLow := true } ∧
    (s.resetLow = true → exec .resetnRelease s = .next { unmoved s with resetLow := false, tickCounter := 0 }) ∧
    (s.resetLow = false → exec .resetnRelease s = .next (unmoved s)) ∧
    (s.quiescing = true → s.postQueue = [] → (∀ t op, s.tag t ≠ .outstanding op) →
      exec .softResetComplete s = .next { State.reset with
        reports := [{ kind := .resetDone }]
        pending := s.pending, response := s.response, tickCounter := s.tickCounter, resetLow := s.resetLow
        nextAge := s.nextAge, choices := s.choices }) ∧
    (s.quiescing = false ∨ s.postQueue ≠ [] ∨ (∃ t op, s.tag t = .outstanding op) →
      exec .softResetComplete s = .next (unmoved s))

/-! ## The initiator port -/

/-- SYNC with no mark (R133): with no queued write, DONE, or REFUSED LOST and the loss flag cleared; with queued writes,
RETRY and the mark set to the taken sequence, not reached. Nothing but the requester record changes. That the poison
indicator is clear with DONE, RETRY and REFUSED, as the whole bus response here has it, is the model's choice (log entry
19). -/
def Obligations.SyncWithoutMark : Prop :=
  ∀ (r : ReqId) (s : State), s.resetLow = false → s.quiescing = false → (s.req r).enabled = true →
    (s.req r).mark = none →
    ((s.req r).queuedWrites = 0 → (s.req r).lossFlag = false →
      exec (.sync r) s = .next (busAnswered { code := .done } s)) ∧
    ((s.req r).queuedWrites = 0 → (s.req r).lossFlag = true →
      exec (.sync r) s =
        .next (setReq r { s.req r with lossFlag := false } (busAnswered { code := .refused .lost } s))) ∧
    (0 < (s.req r).queuedWrites →
      exec (.sync r) s =
        .next (setReq r { s.req r with mark := some ((s.req r).taken, false) } (busAnswered { code := .retry } s)))

/-- SYNC with a mark (R134): RETRY until the mark is reached; then DONE, or REFUSED LOST and the loss flag cleared, and
the mark absent. The queued write count plays no part. That the poison indicator is clear with DONE, RETRY and REFUSED, as
the whole bus response here has it, is the model's choice (log entry 19). -/
def Obligations.SyncWithMark : Prop :=
  ∀ (r : ReqId) (m : Seq) (reached : Bool) (s : State), s.resetLow = false → s.quiescing = false →
    (s.req r).enabled = true → (s.req r).mark = some (m, reached) →
    (reached = false → exec (.sync r) s = .next (busAnswered { code := .retry } s)) ∧
    (reached = true → (s.req r).lossFlag = false →
      exec (.sync r) s = .next (setReq r { s.req r with mark := none } (busAnswered { code := .done } s))) ∧
    (reached = true → (s.req r).lossFlag = true →
      exec (.sync r) s =
        .next (setReq r { s.req r with lossFlag := false, mark := none }
          (busAnswered { code := .refused .lost } s)))

/-- Steps 1 and 2 of the decode order (R77, R78, R86): the unassigned kind, and a READ or WRITE of length 0, over 64 or
across a line, are REFUSED MALFORMED, whether or not the requester is enabled; a disabled requester is then REFUSED
DISABLED, a SYNC included.
That the poison indicator is clear with REFUSED, as the whole response has it, is the model's choice (log entry 19). -/
def Obligations.MalformedAndDisabledAreRefused : Prop :=
  ∀ (r : ReqId) (a : Addr) (len : BitVec 7) (lanes : Lanes) (en : BitVec 64) (s : State), s.resetLow = false →
    exec (.unassignedKind r) s = .next (refusedAt r .malformed s) ∧
    (len.toNat = 0 ∨ 64 < len.toNat ∨ 64 < a.toNat % 64 + len.toNat →
      exec (.write r a len lanes en) s = .next (refusedAt r .malformed s) ∧
      exec (.read r a len) s = .next (refusedAt r .malformed s)) ∧
    ((s.req r).enabled = false →
      exec (.sync r) s = .next (refusedAt r .disabled s) ∧
      (1 ≤ len.toNat → a.toNat % 64 + len.toNat ≤ 64 →
        exec (.write r a len lanes en) s = .next (refusedAt r .disabled s) ∧
        exec (.read r a len) s = .next (refusedAt r .disabled s)))

/-- Steps 4 and 5 (R80 to R83): in a claimed window the aperture's state decides, then mask and rights, then the mapped
length; a request that ends exactly at the mapped length is not refused here. In no claimed window a confined requester
is REFUSED OUTSIDE.
That the poison indicator is clear with RETRY and REFUSED, as the whole response has it, is the model's choice (log entry 19). -/
def Obligations.TheWindowDecides : Prop :=
  ∀ (r : ReqId) (a : Addr) (len : BitVec 7) (lanes : Lanes) (en : BitVec 64) (s : State),
    Passes r a len.toNat s → s.quiescing = false → windowsDisjoint s → Unmatched r a len.toNat s →
    let write := exec (.write r a len lanes en) s
    let read := exec (.read r a len) s
    (∀ k, Inside a k s →
      let x := s.ap k
      (x.state = .loading → write = .next (retried s) ∧ read = .next (retried s)) ∧
      (x.state = .draining → write = .next (refusedAt r .closing s) ∧ read = .next (refusedAt r .closing s)) ∧
      (x.state = .faulted → write = .next (refusedAt r .faulted s) ∧ read = .next (refusedAt r .faulted s)) ∧
      (x.state = .active ∨ (∃ p, x.state = .rebinding p) →
        (¬Permitted true r x → write = .next (refusedAt r .notPermitted s)) ∧
        (¬Permitted false r x → read = .next (refusedAt r .notPermitted s)) ∧
        (x.mappedLength < a.toNat - x.windowBase.toNat + len.toNat →
          (Permitted true r x → write = .next (refusedAt r .beyondMap s)) ∧
          (Permitted false r x → read = .next (refusedAt r .beyondMap s))))) ∧
    (Outside a s → (s.req r).confined = true →
      write = .next (refusedAt r .outside s) ∧ read = .next (refusedAt r .outside s))

/-- Steps 3 and 6 (R79, R84, R85): while the bridge is quiescing, a presentation that passes steps 1 and 2 is answered
RETRY, and with no room an admitted request is; nothing else happens in either case. (A READ that a slot still matches is
answered from the slot, and is not asked here.)
That the poison indicator is clear with RETRY, as the whole response has it, is the model's choice (log entry 19). -/
def Obligations.QuiescingAndNoRoomAreRetried : Prop :=
  ∀ (r : ReqId) (a : Addr) (len : BitVec 7) (lanes : Lanes) (en : BitVec 64) (p : Option Place) (s : State),
    (s.resetLow = false → s.quiescing = true → (s.req r).enabled = true →
      exec (.sync r) s = .next (retried s)) ∧
    (s.quiescing = true → Passes r a len.toNat s →
      exec (.write r a len lanes en) s = .next (retried s) ∧
      (Unmatched r a len.toNat s → exec (.read r a len) s = .next (retried s))) ∧
    (Admitted true r a len.toNat p s → ¬WriteRoom r s →
      exec (.write r a len lanes en) s = .next (retried s)) ∧
    (Admitted false r a len.toNat p s → Unmatched r a len.toNat s → ¬ReadRoom r s →
      exec (.read r a len) s = .next (retried s))

/-- An admitted WRITE with room is TAKEN on either path (R84, R90, R92): its requester's taken sequence advances by one
and no other requester's does; the slots of its own requester whose bytes it overlaps are dropped, and no other slot is,
nor does one open; the settings, the pending response and the tick counter stand.
That the poison indicator is clear with TAKEN, as the whole response has it, is the model's choice (log entry 19). -/
def Obligations.AdmittedWritesAreTaken : Prop :=
  ∀ (r : ReqId) (a : Addr) (len : BitVec 7) (lanes : Lanes) (en : BitVec 64) (p : Option Place) (s : State),
    Admitted true r a len.toNat p s → WriteRoom r s →
    ∃ t, exec (.write r a len lanes en) s = .next t ∧
      t.out.bus = some { code := .taken } ∧
      (t.req r).taken = (s.req r).taken + 1 ∧
      (∀ q, q ≠ r → (t.req q).taken = (s.req q).taken) ∧
      (∀ n, s.slot n = none → t.slot n = none) ∧
      (∀ (n : SlotId) (c : Slot), s.slot n = some c →
        let overlap := c.core.requester = r ∧
          a.toNat < c.core.address.toNat + c.core.length ∧ c.core.address.toNat < a.toNat + len.toNat
        (overlap → t.slot n = none) ∧
        (¬overlap → ∃ d, t.slot n = some d ∧ d.core.requester = c.core.requester ∧
          d.core.address = c.core.address ∧ d.core.length = c.core.length ∧ d.fence = c.fence)) ∧
      t.settings = s.settings ∧ t.response = s.response ∧ t.quiescing = false ∧ t.resetLow = false ∧
      t.tickCounter = s.tickCounter ∧ t.pending = s.pending

/-- The post entry that a pass-through WRITE becomes (R90, R10). -/
def Sys2Proof.Claims.passEntry (r : ReqId) (a : Addr) (len : Nat) (lanes : Lanes) (x : PieceState) (st : EntryState) (s : State) :
    PostEntry where
  core := { requester := r, address := a, length := len, place := none, pieces := [wholePiece a len x], age := s.nextAge }
  sequence := (s.req r).taken + 1
  data := bytesOfLanes a len lanes
  state := st

/-- A pass-through WRITE on an idle bridge (R84, R90, R94, R95, R96, R142): it is TAKEN, and its bytes go to memory at
its own address as one MWRITE under the lowest FREE data tag; with no data tag FREE it stays READY. Only a data-class tag
carries it, and nothing else changes.
That the poison indicator is clear with TAKEN, as the whole response has it, is the model's choice (log entry 19). -/
def Obligations.PassThroughWriteGoesToMemory : Prop :=
  ∀ (r : ReqId) (a : Addr) (len : BitVec 7) (lanes : Lanes) (en : BitVec 64) (s : State),
    Idle s → Admitted true r a len.toNat none s → (s.req r).queuedWrites < (s.req r).postedLimit →
    let q := (s.req r).taken + 1
    let base := updReq r (fun x => { x with taken := q, queuedWrites := x.queuedWrites + 1 })
      { busAnswered { code := .taken } s with nextAge := s.nextAge + 1 }
    (∀ t, Lowest .data t s →
      exec (.write r a len lanes en) s = .next (issue t
        { cls := .data, owner := some (.piece (.entry r q) 0), kind := .mwrite, address := a, length := len.toNat
          data := bytesOfLanes a len.toNat lanes
          fields := { requester := some r, sequence := some q, address := some a } }
        { base with lastGrant := .write, postQueue := [passEntry r a len.toNat lanes .issued .issued s] })) ∧
    (NoneFree .data s →
      exec (.write r a len lanes en) s =
        .next { base with postQueue := [passEntry r a len.toNat lanes .pending .ready s] })

/-- A READ that a slot matches is answered from that slot alone (R110, R111): RETRY while it is in progress, and nothing
else happens. A READY or FAILED slot is collected: DATA with the slot's bytes on the lanes of its address; or, FAILED,
REFUSED FAILED in REFUSE mode and poisoned bytes of 0xFF in ONES mode; and the slot is freed.
That the poison indicator is clear with RETRY and REFUSED, as the whole response has it, is the model's choice (log entry 19). -/
def Obligations.AMatchedReadIsAnsweredFromItsSlot : Prop :=
  ∀ (n : SlotId) (c : Slot) (len : BitVec 7) (s : State), slotsCounted s → s.slot n = some c →
    Passes c.core.requester c.core.address len.toNat s → c.core.length = len.toNat →
    (c.state = .translating ∨ c.state = .ordered ∨ c.state = .reading →
      exec (.read c.core.requester c.core.address len) s = .next (retried s)) ∧
    (c.state = .ready ∨ c.state = .failed →
      ∃ t, exec (.read c.core.requester c.core.address len) s = .next t ∧
        t.out.bus = some
          (if c.state = .ready then { code := .data, lanes := lanesOfBytes c.core.address c.data }
           else if (s.req c.core.requester).readFailureMode = .refuse then { code := .refused .failed }
           else { code := .data, poison := true
                  lanes := lanesOfBytes c.core.address (List.replicate len.toNat 0xFF) }) ∧
        t.out.mem = [] ∧ Freed n c s t)

/-- Bytes on the two data ports (R72 to R74, R138). Bytes driven on the lanes of an access inside one line stand each on
the lane of its address, every other lane is zero, and the bytes taken from those lanes are the same bytes, whether by a
WRITE or by an MREAD's response. An MWRITE inside one line drives each byte of its data on the lane of its address and no
other lane with it, and an MREAD drives none. A byte of an operation past the end of its line is on the lane of its place in
the line it lies in (DEDUCED, log entry 17). The kind field's codes are 0 READ, 1 WRITE, 2 SYNC and 3 unassigned; a memory
response's are 0 OK, 1 BUSY and any other ERROR; an operation's are 0 MREAD and 1 MWRITE; a response's are 0 to 4, with a
reason from 1 to 9 for REFUSED alone. -/
def Obligations.BytesTravelOnTheirLanes : Prop :=
  (∀ (a : Addr) (bs : List Byte), a.toNat % 64 + bs.length ≤ 64 →
    (∀ (j : Nat) (h : j < bs.length), laneByte (lanesOfBytes a bs) (a.toNat % 64 + j) = bs[j]) ∧
    (∀ j < 64, j < a.toNat % 64 ∨ a.toNat % 64 + bs.length ≤ j → laneByte (lanesOfBytes a bs) j = 0) ∧
    bytesOfLanes a bs.length (lanesOfBytes a bs) = bs ∧
    ∀ (t : TagId) (n : Nat),
      let m (kind : MemKind) : MemIssue := { tag := t, kind := kind, address := a, length := bs.length, data := bs }
      (m .mwrite).lane n = (if a.toNat % 64 ≤ n then bs[n - a.toNat % 64]? else none) ∧ (m .mread).lane n = none) ∧
  (∀ (a : Addr) (bs : List Byte) (l : Lanes) (t : TagId) (j : Nat) (h : j < bs.length), bs.length ≤ 64 →
    ({ tag := t, kind := .mwrite, address := a, length := bs.length, data := bs } : MemIssue).lane
      ((a.toNat + j) % 64) = some bs[j] ∧
    (bytesOfLanes a bs.length l)[j]? = some (laneByte l ((a.toNat + j) % 64))) ∧
  (∀ (r : ReqId) (a : Addr) (len : BitVec 7) (lanes : Lanes) (en : BitVec 64),
    presentation 0 r a len lanes en = .read r a len ∧ presentation 1 r a len lanes en = .write r a len lanes en ∧
    presentation 2 r a len lanes en = .sync r ∧ presentation 3 r a len lanes en = .unassignedKind r) ∧
  (∀ (code : Nat) (t : TagId) (lanes : Lanes),
    memoryResponse 0 t lanes = .responseOk t lanes ∧ memoryResponse 1 t lanes = .responseBusy t ∧
    (2 ≤ code → memoryResponse code t lanes = .responseError t code)) ∧
  MemKind.mread.code = 0 ∧ MemKind.mwrite.code = 1 ∧
  ∀ why : RefusalReason,
    [BusCode.taken, .data, .done, .retry, .refused why].map BusCode.code = [0, 1, 2, 3, 4] ∧
    [BusCode.taken, .data, .done, .retry, .refused why].map BusCode.reason = [0, 0, 0, 0, why.code] ∧
    [RefusalReason.malformed, .disabled, .outside, .notPermitted, .beyondMap, .closing, .faulted, .failed, .lost].map
      RefusalReason.code = [1, 2, 3, 4, 5, 6, 7, 8, 9]

/-- A READ that matches no slot, admitted with room, opens a slot on either path (R85, R112, R113): it is answered
RETRY, an EMPTY slot takes its requester, address and length, its write fence is the taken sequence, met at once when no
write is queued, and the open slot count rises by one; every other slot keeps its occupant.
That the poison indicator is clear with RETRY, as the whole response has it, is the model's choice (log entry 19). -/
def Obligations.UnmatchedReadsOpenASlot : Prop :=
  ∀ (r : ReqId) (a : Addr) (len : BitVec 7) (p : Option Place) (s : State),
    Admitted false r a len.toNat p s → Unmatched r a len.toNat s → ReadRoom r s →
    ∃ t n c, exec (.read r a len) s = .next t ∧
      t.out.bus = some { code := .retry } ∧
      s.slot n = none ∧ t.slot n = some c ∧
      c.core.requester = r ∧ c.core.address = a ∧ c.core.length = len.toNat ∧ c.core.place = p ∧
      c.fence = (s.req r).taken ∧ ((s.req r).queuedWrites = 0 → c.fenceMet = true) ∧
      (t.req r).openSlots = (s.req r).openSlots + 1 ∧
      (∀ q, q ≠ r → (t.req q).openSlots = (s.req q).openSlots) ∧
      (∀ m, m ≠ n → (s.slot m).map (fun d => (d.core.requester, d.core.address, d.core.length)) =
        (t.slot m).map (fun d => (d.core.requester, d.core.address, d.core.length))) ∧
      (∀ q, (t.req q).taken = (s.req q).taken) ∧ t.settings = s.settings ∧ t.response = s.response ∧
      t.quiescing = false ∧ t.resetLow = false ∧ t.tickCounter = s.tickCounter ∧ t.pending = s.pending

/-- A pass-through READ on an idle bridge (R85, R113 to R115, R142): its slot goes through to READING and one MREAD of
its own bytes is issued under the lowest FREE data tag. That the lowest-numbered EMPTY slot is taken is the model's
choice, which has no effect (R113, log entry 11).
That the poison indicator is clear with RETRY, as the whole response has it, is the model's choice (log entry 19). -/
def Obligations.PassThroughReadIsIssued : Prop :=
  ∀ (r : ReqId) (a : Addr) (len : BitVec 7) (t : TagId) (s : State),
    Idle s → Admitted false r a len.toNat none s → (s.req r).openSlots < (s.req r).slotLimit →
    (s.req r).queuedWrites = 0 → Lowest .data t s →
    exec (.read r a len) s = .next (issue t
      { cls := .data, owner := some (.piece (.slot 0) 0), kind := .mread, address := a, length := len.toNat
        fields := { requester := some r, address := some a } }
      (setSlot 0 (some
        { core := { requester := r, address := a, length := len.toNat, place := none
                    pieces := [wholePiece a len.toNat .issued], age := s.nextAge }
          fence := (s.req r).taken, fenceMet := true, state := .reading })
        (updReq r (fun x => { x with openSlots := x.openSlots + 1 })
          { retried s with nextAge := s.nextAge + 1, lastGrant := .read })))

/-! ## The memory port, reads and writes in flight -/

/-- A post of a report: stored at the tail while fewer than 16 records are held, else dropped and counted, the dropped
count stopping at 255 (R158, R159); and an issue: the tag is OUTSTANDING with its timer at the response limit, and the
operation is driven on the port (R138, R149). The statements below say what is posted and issued in these terms. -/
def Obligations.PostsAndIssuesAreWhatTheyAre : Prop :=
  (∀ (p : Report) (s : State),
    (s.reports.length < 16 → post p s = { s with reports := s.reports ++ [p] }) ∧
    (16 ≤ s.reports.length → post p s = { s with dropped := min 255 (s.dropped + 1) })) ∧
  ∀ (t : TagId) (op : Op) (s : State),
    (issue t op s).tag t = .outstanding { op with timer := s.settings.responseLimit } ∧
    (∀ u, u ≠ t → (issue t op s).tag u = s.tag u) ∧
    (issue t op s).out.mem =
      s.out.mem ++ [{ tag := t, kind := op.kind, address := op.address, length := op.length, data := op.data }] ∧
    { issue t op s with tags := s.tags, out := s.out } = s

/-- The three commands that carry a memory response under a tag. -/
def Sys2Proof.Claims.responses (t : TagId) (lanes : Lanes) (code : Nat) : List Instr :=
  [.responseOk t lanes, .responseBusy t, .responseError t code]

/-- Responses to no running operation (R150, R151, R152): a stray response posts LATE_RESPONSE with the tag alone and
changes no tag; the late response to a QUARANTINED tag frees it and posts LATE_RESPONSE with the fields the tag kept; an
operation whose owner has gone ends in silence, its tag FREE after a response and QUARANTINED after a timeout. That
RESPONSE_TIMEOUT as a command is the expiry whatever ticks are left, and nothing for a tag with no timer running, is the
model's choice (log entry 7). -/
def Obligations.ResponsesWithoutAnOwner : Prop :=
  ∀ (t : TagId) (lanes : Lanes) (code : Nat) (s : State), s.resetLow = false →
    (∀ i ∈ responses t lanes code,
      (s.tag t = .free → exec i s = .next (post { kind := .lateResponse, tag := some t } (unmoved s))) ∧
      (∀ f, s.tag t = .quarantined f → NothingWaits s →
        exec i s = .next (post
          { kind := .lateResponse, cause := some .responseTimeout, tag := some t, requester := f.requester
            sequence := f.sequence, address := f.address, aperture := f.aperture, generation := f.generation
            windowOffset := f.windowOffset, extentIndex := f.extentIndex } (setTag t .free (unmoved s)))) ∧
      (∀ op, s.tag t = .outstanding op → op.cancelled = true → op.owner = none → NothingWaits s →
        exec i s = .next (setTag t .free (unmoved s)))) ∧
    (∀ op, s.tag t = .outstanding op → op.cancelled = true → op.owner = none → NothingWaits s →
      exec (.responseTimeout t) s = .next (setTag t (.quarantined op.fields) (unmoved s))) ∧
    ((∀ op, s.tag t ≠ .outstanding op) → exec (.responseTimeout t) s = .next (unmoved s))

/-- RESPONSE_BUSY within the retry budget, or with a budget of 0 (R145): the tag is FREE, and the operation goes to
BACKOFF with its retry count one higher; its owner, a piece, a walk or a line of a running job, is not told, and nothing
else changes. -/
def Obligations.BusySendsAnOperationToBackoff : Prop :=
  ∀ (t : TagId) (op : Op) (s : State), s.resetLow = false → s.tag t = .outstanding op → op.cancelled = false →
    s.settings.retryBudget = 0 ∨ op.retries + 1 ≤ s.settings.retryBudget → NothingWaits s →
    exec (.responseBusy t) s = .next { setTag t .free (unmoved s) with
      parked := s.parked ++ [{ op := { op with retries := op.retries + 1 }, waiting := false }] }

/-- An owner whose aperture, if it has one, is ACTIVE, and that carries no settling mark: its end moves no aperture. -/
structure Sys2Proof.Claims.Plain (c : OwnerCore) (s : State) : Prop where
  mark : c.settlingMark = false
  progress : c.progress = none
  place : ∀ x, c.place = some x → (s.ap x.aperture).state = .active

/-- A post entry with one piece in flight under a tag, perhaps others before and after it, and no other traffic; every
operation in BACKOFF, or waiting for a tag after it, is another piece of the entry. -/
structure Sys2Proof.Claims.OneWrite (t : TagId) (op : Op) (e : PostEntry) (before : List Piece) (p : Piece)
    (after : List Piece) (s : State) : Prop where
  up : s.resetLow = false
  going : s.quiescing = false
  entries : s.postQueue = [e]
  pieces : e.core.pieces = before ++ p :: after
  piece : p.state = .issued
  distinct : ∀ y ∈ before ++ after, y.index ≠ p.index
  plain : Plain e.core s
  slots : ∀ n : SlotId, s.slot n = none
  misses : s.missQueue = []
  unqueued : s.unqueued = []
  jobs : s.jobs = []
  parked : ∀ x ∈ s.parked, ∃ y ∈ before ++ after, x.op.owner = some (.piece e.ref y.index)
  tag : s.tag t = .outstanding op
  owner : op.owner = some (.piece e.ref p.index)
  only : ∀ u op' k, s.tag u = .outstanding op' → op'.owner = some (.piece e.ref k) →
    u = t ∨ ∃ y ∈ before ++ after, y.index = k

/-- A piece's operation is OUTSTANDING under some tag. -/
def Sys2Proof.Claims.Flying (o : OwnerRef) (y : Piece) (s : State) : Prop :=
  ∃ u op, s.tag u = .outstanding op ∧ op.owner = some (.piece o y.index)

/-- What the failure of one piece leaves of another (R98, R117): one that is PENDING, or whose operation waits in BACKOFF, is
ENDED; one whose operation is OUTSTANDING stays ISSUED; bytes read are discarded; one WRITTEN or ENDED stays so. -/
def Sys2Proof.Claims.besideFailure (flying : Piece → Bool) (y : Piece) : Piece :=
  match y.state with
  | .pending => { y with state := .ended }
  | .issued => if flying y then y else { y with state := .ended }
  | .read _ => { y with state := .read [] }
  | .written => y
  | .ended => y

/-- The cancelling of an owner's OUTSTANDING operations (R152): each is flagged under its tag, and no other tag changes. -/
def Sys2Proof.Claims.Cancelled (o : OwnerRef) (s t : State) : Prop :=
  (∀ v op k, s.tag v = .outstanding op → op.owner = some (.piece o k) →
    t.tag v = .outstanding { op with cancelled := true }) ∧
  ∀ v, (∀ op k, s.tag v = .outstanding op → op.owner ≠ some (.piece o k)) → t.tag v = s.tag v

/-- What the leaving of the only post entry does to the counts (R100, R132). -/
def Sys2Proof.Claims.left (e : PostEntry) (s : State) : State :=
  lowerInFlight e.core.place
    (updReq e.core.requester (fun q => { q with
      completed := e.sequence
      queuedWrites := q.queuedWrites - 1
      mark := if q.mark = some (e.sequence, false) then some (e.sequence, true) else q.mark })
      { s with postQueue := [] })

/-- The three ways in which an operation ends in failure (R145, R147, R149): the command, the cause and what becomes of
the tag. -/
def Sys2Proof.Claims.Fails (t : TagId) (op : Op) (i : Instr) (c : Cause) (x : TagState) (s : State) : Prop :=
  (∃ code, i = .responseError t code ∧ c = .memoryError ∧ x = .free) ∨
  (i = .responseBusy t ∧ s.settings.retryBudget ≠ 0 ∧ s.settings.retryBudget < op.retries + 1 ∧
    c = .retryExhausted ∧ x = .free) ∨
  (i = .responseTimeout t ∧ c = .responseTimeout ∧ x = .quarantined op.fields)

/-- The ways in which a cancelled operation ends, whatever the response says, and what becomes of the tag (R152). -/
def Sys2Proof.Claims.Ends (t : TagId) (op : Op) (i : Instr) (x : TagState) : Prop :=
  (∃ lanes code, i ∈ responses t lanes code ∧ x = .free) ∨ (i = .responseTimeout t ∧ x = .quarantined op.fields)

/-- The failure that an owner records when the operation of a piece fails under a tag (R98, R102, R117, R118). -/
def Sys2Proof.Claims.failureAt (c : OwnerCore) (p : Piece) (t : TagId) (cause : Cause) : Failure where
  cause := cause
  extentIndex := p.extentIndex
  windowOffset := c.place.map fun w => w.offset + p.offset
  tag := some t
  generation := c.generation

/-- The only post entry leaves lost with a failure (R100 to R102): after the leaving, the loss flag is set, the aperture's
fault count rises and WRITE_LOST is posted. -/
def Sys2Proof.Claims.lost (e : PostEntry) (f : Failure) (s : State) : State :=
  post { kind := .writeLost, cause := some f.cause, sub := f.sub.map SubReason.bad, requester := some e.core.requester
         sequence := some e.sequence, address := some e.core.address, aperture := e.core.place.map (·.aperture)
         generation := f.generation, windowOffset := f.windowOffset, extentIndex := f.extentIndex, tag := f.tag }
    (addFault e.core.place (updReq e.core.requester (fun q => { q with lossFlag := true }) (left e s)))

/-- The end of a write's memory operation (R97 to R102, R132, R144, R147, R149, R152). OK: the piece is WRITTEN; with
another piece ISSUED the entry stays, and with all WRITTEN it leaves without a report. Failure, whatever the other pieces are
at: those PENDING, or with an operation in BACKOFF, are ENDED and never issued, and those with an operation OUTSTANDING stay
ISSUED, it being cancelled. With none OUTSTANDING the entry leaves lost at once: loss flag, fault count, and WRITE_LOST with
the cause, the failing piece's offset and extent, and the tag; with one OUTSTANDING it is FAILED with that failure recorded,
and nothing is reported. A cancelled operation's end makes its piece ENDED, and after the last the FAILED entry leaves lost.
Leaving makes the completed sequence the entry's, lowers the queued write count, and reaches a SYNC mark on it. (That a
timeout as a command is the expiry whatever ticks are left: log entry 7.) -/
def Obligations.WritesEndWrittenOrLost : Prop :=
  ∀ (t : TagId) (op : Op) (e : PostEntry) (before after : List Piece) (p : Piece) (s : State),
    OneWrite t op e before p after s →
    (e.state = .issued → op.cancelled = false →
      ((∀ y ∈ before ++ after, y.state = .written ∨ y.state = .issued) → (∀ x ∈ s.parked, x.waiting = false) →
        (∀ lanes, (∃ y ∈ before ++ after, y.state = .issued) →
          exec (.responseOk t lanes) s = .next (setTag t .free { unmoved s with
            postQueue := [{ e with core := { e.core with
              pieces := before ++ { p with state := .written } :: after } }] })) ∧
        (∀ lanes, (∀ y ∈ before ++ after, y.state = .written) →
          exec (.responseOk t lanes) s = .next (left e (setTag t .free (unmoved s))))) ∧
      ∀ i c x (flying : Piece → Bool), Fails t op i c x s →
        (∀ y ∈ before ++ after, flying y = true ↔ Flying e.ref y s) →
        ((∀ y ∈ before ++ after, flying y = false) →
          exec i s = .next (lost e (failureAt e.core p t c) (setTag t x { unmoved s with parked := [] }))) ∧
        ((∃ y ∈ before ++ after, y.state = .issued ∧ flying y = true) →
          ∃ u, exec i s = .next u ∧ Cancelled e.ref (setTag t x s) u ∧
            { u with tags := s.tags } = { unmoved s with
              parked := []
              postQueue := [{ e with
                state := .failed
                core := { e.core with
                  failure := some (failureAt e.core p t c)
                  pieces := before.map (besideFailure flying) ++
                    { p with state := .ended } :: after.map (besideFailure flying) } }] })) ∧
    ∀ f i x, e.state = .failed → e.core.failure = some f → op.cancelled = true → Ends t op i x →
      ((∀ y ∈ before ++ after, y.state ≠ .issued) → exec i s = .next (lost e f (setTag t x (unmoved s)))) ∧
      ((∃ y ∈ before ++ after, y.state = .issued) →
        exec i s = .next (setTag t x { unmoved s with
          postQueue := [{ e with core := { e.core with
            pieces := before ++ { p with state := .ended } :: after } }] }))

/-- A slot with one piece in flight under a tag, perhaps others before and after it, and no other traffic; every operation
in BACKOFF, or waiting for a tag after it, is another piece of the slot. -/
structure Sys2Proof.Claims.OneRead (t : TagId) (op : Op) (n : SlotId) (c : Slot) (before : List Piece) (p : Piece)
    (after : List Piece) (s : State) : Prop where
  up : s.resetLow = false
  going : s.quiescing = false
  entries : s.postQueue = []
  slot : s.slot n = some c
  others : ∀ m : SlotId, m ≠ n → s.slot m = none
  pieces : c.core.pieces = before ++ p :: after
  piece : p.state = .issued
  distinct : ∀ y ∈ before ++ after, y.index ≠ p.index
  plain : Plain c.core s
  misses : s.missQueue = []
  jobs : s.jobs = []
  parked : ∀ x ∈ s.parked, ∃ y ∈ before ++ after, x.op.owner = some (.piece (.slot n) y.index)
  tag : s.tag t = .outstanding op
  owner : op.owner = some (.piece (.slot n) p.index)
  only : ∀ u op' k, s.tag u = .outstanding op' → op'.owner = some (.piece (.slot n) k) →
    u = t ∨ ∃ y ∈ before ++ after, y.index = k

/-- A slot that has failed, with its pieces as they now are (R117 to R119). -/
def Sys2Proof.Claims.failedSlot (c : Slot) (f : Failure) (pieces : List Piece) (s : State) : Slot :=
  { c with
    state := .failed, timer := some s.settings.discardInterval
    core := { c.core with failure := some f, pieces := pieces } }

/-- The READ_FAILED of a slot that fails with no bad entry (R118). -/
def Sys2Proof.Claims.readFailed (c : OwnerCore) (f : Failure) : Report where
  kind := .readFailed
  cause := some f.cause
  requester := some c.requester
  address := some c.address
  aperture := c.place.map (·.aperture)
  generation := f.generation
  windowOffset := f.windowOffset
  extentIndex := f.extentIndex
  tag := f.tag

/-- The end of a read's memory operation (R116 to R119, R144, R147, R149, R152). OK: the piece is READ with the response's
bytes; with another ISSUED the slot stays READING, and with all READ it is READY with the pieces' bytes in order. (A piece's
bytes past the end of a line are on the lanes of their places in the next: DEDUCED, log entry 17.) Failure, whatever the other pieces are at: the slot is FAILED
and READ_FAILED is posted at once; those PENDING, or with an operation in BACKOFF, are ENDED, those with an operation
OUTSTANDING stay ISSUED, it being cancelled, and bytes read are discarded. READY and FAILED start the discard timer from the
discard interval. A cancelled operation's end makes its piece ENDED, without another report. (That a timeout as a command is
the expiry whatever ticks are left: log entry 7.) -/
def Obligations.ReadsEndReadyOrFailed : Prop :=
  ∀ (t : TagId) (op : Op) (n : SlotId) (c : Slot) (before after : List Piece) (p : Piece) (s : State),
    OneRead t op n c before p after s →
    (c.state = .reading → op.cancelled = false →
      ((∀ y ∈ before ++ after, y.state = .issued ∨ ∃ bs, y.state = .read bs) → (∀ x ∈ s.parked, x.waiting = false) →
        ∀ lanes,
        let bytes := bytesOfLanes op.address op.length lanes
        let pieces := before ++ { p with state := .read bytes } :: after
        ((∃ y ∈ before ++ after, y.state = .issued) →
          exec (.responseOk t lanes) s = .next (setSlot n (some { c with core := { c.core with pieces := pieces } })
            (setTag t .free (unmoved s)))) ∧
        ((∀ y ∈ before ++ after, y.state ≠ .issued) →
          exec (.responseOk t lanes) s = .next (setSlot n (some { c with
            state := .ready, data := before.flatMap Piece.bytes ++ bytes ++ after.flatMap Piece.bytes
            timer := some s.settings.discardInterval
            core := { c.core with pieces := pieces } }) (setTag t .free (unmoved s))))) ∧
      ∀ i w x (flying : Piece → Bool), Fails t op i w x s →
        (∀ y ∈ before ++ after, flying y = true ↔ Flying (.slot n) y s) →
        let f := failureAt c.core p t w
        let pieces := before.map (besideFailure flying) ++ { p with state := .ended } :: after.map (besideFailure flying)
        ∃ u, exec i s = .next u ∧ Cancelled (.slot n) (setTag t x s) u ∧
          { u with tags := s.tags } =
            addFault c.core.place (post (readFailed c.core f)
              (setSlot n (some (failedSlot c f pieces s)) { unmoved s with parked := [] }))) ∧
    ∀ i x, c.state = .failed → op.cancelled = true → Ends t op i x →
      exec i s = .next (setSlot n (some { c with core := { c.core with
        pieces := before ++ { p with state := .ended } :: after } }) (setTag t x (unmoved s)))

/-- DISCARD_EXPIRY (R119): a slot with its timer running posts READ_DISCARDED, with the failure cause of a FAILED slot
and none for a READY one, and is freed; with no timer running nothing happens. Three things here are the model's: the
report's window offset is that of the slot's request, and its generation that of the failure or the translation (log entry
14, DEDUCED); and the command is the expiry whatever ticks are left, and nothing for a stopped timer (log entry 7). -/
def Obligations.DiscardExpiryFreesTheSlot : Prop :=
  ∀ (n : SlotId) (s : State),
    (∀ c, s.slot n = some c → c.timer.isSome = true →
      ∃ t, exec (.discardExpiry n) s = .next t ∧ t.out = {} ∧
        Freed n c (post
          { kind := .readDiscarded, cause := c.core.failure.map (·.cause), requester := some c.core.requester
            address := some c.core.address, aperture := c.core.place.map (·.aperture)
            windowOffset := c.core.place.map (·.offset)
            generation := c.core.failure.elim c.core.generation (·.generation) } s) t) ∧
    ((s.slot n = none ∨ ∃ c, s.slot n = some c ∧ c.timer = none) →
      exec (.discardExpiry n) s = .next (unmoved s))

/-- BACKOFF_END (R141, R142, R146): a walk read is issued again at once under its engine's FREE tag; the operation of a
write's or a read's piece is issued again under the lowest FREE data tag, and a list line's under the lowest FREE
validation tag (log entry 6), or waits when none is FREE; each carries its original record. That an operation not in BACKOFF
has no backoff to end, and that the command is its end whatever ticks are left, are the model's choices (log entry 7). -/
def Obligations.BackoffEndIssuesAgain : Prop :=
  (∀ (e : EngineId) (op : Op) (s : State), NothingWaits s → s.parked = [{ op := op, waiting := false }] →
    op.owner = some (.walk e) → s.tag ⟨e.val, by omega⟩ = .free →
    exec (.backoffEnd (.walk e)) s = .next (issue ⟨e.val, by omega⟩ op { unmoved s with parked := [] })) ∧
  (∀ (k : Nat) (op : Op) (s : State), NothingWaits s → s.jobs ≠ [] → s.parked = [{ op := op, waiting := false }] →
    op.owner = some (.line k) →
    (∀ t, Lowest .validation t s →
      exec (.backoffEnd (.line k)) s = .next (issue t op { unmoved s with parked := [] })) ∧
    (NoneFree .validation s →
      exec (.backoffEnd (.line k)) s = .next { unmoved s with parked := [{ op := op, waiting := true }] })) ∧
  (∀ (e : PostEntry) (p : Piece) (op : Op) (s : State), s.quiescing = false → s.postQueue = [e] →
    e.state = .issued → e.core.pieces = [p] → p.state = .issued → (∀ n, s.slot n = none) → s.missQueue = [] →
    s.jobs = [] → s.parked = [{ op := op, waiting := false }] → op.owner = some (.piece e.ref p.index) →
    (∀ t, Lowest .data t s →
      exec (.backoffEnd (.piece e.ref p.index)) s =
        .next (issue t op { unmoved s with parked := [], lastGrant := .write })) ∧
    (NoneFree .data s →
      exec (.backoffEnd (.piece e.ref p.index)) s =
        .next { unmoved s with parked := [{ op := op, waiting := true }] })) ∧
  (∀ (n : SlotId) (c : Slot) (p : Piece) (op : Op) (s : State), s.quiescing = false → s.postQueue = [] →
    s.slot n = some c → (∀ m, m ≠ n → s.slot m = none) → c.state = .reading → c.core.pieces = [p] →
    p.state = .issued → s.missQueue = [] → s.jobs = [] → s.parked = [{ op := op, waiting := false }] →
    op.owner = some (.piece (.slot n) p.index) →
    (∀ t, Lowest .data t s →
      exec (.backoffEnd (.piece (.slot n) p.index)) s =
        .next (issue t op { unmoved s with parked := [], lastGrant := .read })) ∧
    (NoneFree .data s →
      exec (.backoffEnd (.piece (.slot n) p.index)) s =
        .next { unmoved s with parked := [{ op := op, waiting := true }] })) ∧
  ∀ (o : OpName) (s : State), (∀ p ∈ s.parked, p.op.owner = some o → p.waiting = true) →
    exec (.backoffEnd o) s = .next (unmoved s)

/-- A tick has lowered every running timer and put the counter at 0 (R119, R148, R149). -/
def Sys2Proof.Claims.ticked (s : State) : State :=
  { unmoved s with
    tickCounter := 0
    tags := s.tags.map fun x => match x with
      | .outstanding op => .outstanding { op with timer := op.timer - 1 }
      | x => x
    slots := s.slots.map fun x => x.map fun c => { c with timer := c.timer.map (· - 1) } }

/-- The tag's response timer ends at the next tick. -/
def Sys2Proof.Claims.TagDue (t : TagId) (s : State) : Prop := ∃ op, s.tag t = .outstanding op ∧ op.timer ≤ 1

/-- The slot's discard timer ends at the next tick. -/
def Sys2Proof.Claims.SlotDue (n : SlotId) (s : State) : Prop := ∃ c k, s.slot n = some c ∧ c.timer = some k ∧ k ≤ 1

/-- TICK (R119, R146, R148, R149): every running timer falls by one. With no interval ending, that is all; with one
ending, its expiry follows on the lowered timers: a response timer's, a discard timer's, or a backoff's end. (With more
than one, the order is a free value, log entry 3, and nothing is said.) -/
def Obligations.ATickLowersTimersAndEndsIntervals : Prop :=
  ∀ s : State, s.resetLow = false →
    ((∀ t, ¬TagDue t s) → (∀ n, ¬SlotDue n s) → (∀ p ∈ s.parked, p.waiting = true) →
      exec .tick s = .next (ticked s)) ∧
    (∀ t, TagDue t s → (∀ u, u ≠ t → ¬TagDue u s) → (∀ n, ¬SlotDue n s) → (∀ p ∈ s.parked, p.waiting = true) →
      exec .tick s = exec (.responseTimeout t) (ticked s)) ∧
    (∀ n, SlotDue n s → (∀ m, m ≠ n → ¬SlotDue m s) → (∀ t, ¬TagDue t s) → (∀ p ∈ s.parked, p.waiting = true) →
      exec .tick s = exec (.discardExpiry n) (ticked s)) ∧
    (∀ o, (∃ p ∈ s.parked, p.waiting = false) → (∀ p ∈ s.parked, p.waiting = false → p.op.owner = some o) →
      (∀ t, ¬TagDue t s) → (∀ n, ¬SlotDue n s) → exec .tick s = exec (.backoffEnd o) (ticked s))

/-- ARBITER_GRANT (R142) with one data tag FREE, the oldest entry's first PENDING piece and the oldest slot's first
PENDING piece both waiting: the kind other than the one recorded wins, its operation is issued under that tag, and it
becomes the recorded kind. With no data tag FREE, or no piece waiting, there is no grant. Two things here are the model's:
the window offset that the operation keeps is its piece's (log entry 8, DEDUCED), and that the command does nothing where
its condition does not stand (log entry 1). -/
def Obligations.TheArbiterAlternates : Prop :=
  (∀ (t : TagId) (e : PostEntry) (p : Piece) (n : SlotId) (c : Slot) (x : Piece) (s : State),
    s.tag t = .free → tagClass t = .data → (∀ u, u ≠ t → tagClass u = .data → s.tag u ≠ .free) →
    s.postQueue = [e] → e.state = .ready → e.core.pieces = [p] → p.state = .pending → p.target.isSome = true →
    s.slot n = some c → (∀ m, m ≠ n → s.slot m = none) → c.state = .reading → c.core.pieces = [x] →
    x.state = .pending → x.target.isSome = true → s.parked = [] →
    let fields (o : OwnerCore) (q : Option Seq) (y : Piece) : ReportFields :=
      { requester := some o.requester, sequence := q, address := some o.address
        aperture := o.place.map (·.aperture), generation := y.generation
        windowOffset := o.place.map fun w => w.offset + y.offset, extentIndex := y.extentIndex }
    (s.lastGrant = .read →
      exec .arbiterGrant s = .next (issue t
        { cls := .data, owner := some (.piece e.ref p.index), kind := .mwrite, address := p.target.getD 0
          length := p.length, data := (e.data.drop p.offset).take p.length
          fields := fields e.core (some e.sequence) p }
        { unmoved s with
          lastGrant := .write
          postQueue := [{ e with state := .issued, core := { e.core with pieces := [{ p with state := .issued }] } }] })) ∧
    (s.lastGrant = .write →
      exec .arbiterGrant s = .next (issue t
        { cls := .data, owner := some (.piece (.slot n) x.index), kind := .mread, address := x.target.getD 0
          length := x.length, fields := fields c.core none x }
        (setSlot n (some { c with core := { c.core with pieces := [{ x with state := .issued }] } })
          { unmoved s with lastGrant := .read })))) ∧
  ∀ s : State, (NoneFree .data s ∨ (waitingWrite s = none ∧ waitingRead s = none)) →
    exec .arbiterGrant s = .next (unmoved s)

/-! ## Translation, walks and the extent cache -/

/-- An offset lies in the extent that cache entry `i` holds for an aperture's current list, and in no other valid entry
of it (R48, R51). -/
def Sys2Proof.Claims.Cached (k : ApId) (off : Nat) (i : Fin 32) (s : State) : Prop :=
  ∀ j, ((s.cached j).valid = true ∧ (s.cached j).aperture = k ∧ (s.cached j).generation = (s.ap k).generation ∧
    (s.cached j).start ≤ off ∧ off < (s.cached j).start + (s.cached j).length) ↔ j = i

/-- No cache entry answers for an offset of an aperture's current list (R48). -/
def Sys2Proof.Claims.Uncached (k : ApId) (off : Nat) (s : State) : Prop :=
  ∀ j, ¬((s.cached j).valid = true ∧ (s.cached j).aperture = k ∧ (s.cached j).generation = (s.ap k).generation ∧
    (s.cached j).start ≤ off ∧ off < (s.cached j).start + (s.cached j).length)

/-- The next tag after `t` of its class that is FREE. -/
def Sys2Proof.Claims.NextLowest (t t' : TagId) (s : State) : Prop :=
  tagClass t' = tagClass t ∧ t < t' ∧ s.tag t' = .free ∧
    ∀ u : TagId, t < u → u < t' → tagClass u = tagClass t → s.tag u ≠ .free

/-- A WRITE through a window on an idle bridge. Its bytes all in one cached extent (R9, R49, R55, R56, R94, R96, R102): MAP
sends them to the target plus the offset into the extent; ZERO completes with no memory operation; ROM and GUARD lose the
write with that extent's index; and the cache entry becomes most recently used. Its bytes in two cached MAP extents (R10,
R55, R142): it is cut where the first ends, and the two pieces go to memory in order under the two lowest FREE data tags. A
piece whose target bytes pass the end of a 64-byte line goes as one operation like any other: R10, R55 and R94 are followed
there over R138, the model's choice (log entry 17).
Its first byte in no cached extent (R57, R59, R63): it is TAKEN and waits TRANSLATING, attached to a new walk request of
that offset, which engine 0 takes if it can and which stays QUEUED if neither can.
That the poison indicator is clear with TAKEN, as the whole response has it, is the model's choice (log entry 19). -/
def Obligations.CachedExtentsDecideAWrite : Prop :=
  (∀ (r : ReqId) (a : Addr) (len : BitVec 7) (lanes : Lanes) (en : BitVec 64) (x : Place) (i : Fin 32) (t : TagId)
      (s : State),
    Idle s → Admitted true r a len.toNat (some x) s → (s.req r).queuedWrites = 0 → 1 ≤ (s.req r).postedLimit →
    (s.ap x.aperture).state = .active → Lowest .data t s → Cached x.aperture x.offset i s →
    let q := (s.req r).taken + 1
    let e := s.cached i
    let address := BitVec.ofNat 40 (e.target.toNat + (x.offset - e.start))
    let data := bytesOfLanes a len.toNat lanes
    (x.offset + len.toNat ≤ e.start + e.length →
      ∃ u, exec (.write r a len lanes en) s = .next u ∧ u.out.bus = some { code := .taken } ∧
        (u.cached i).rank = 0 ∧ (u.req r).taken = q ∧ Untouched s u ∧ u.slots = s.slots ∧ u.missQueue = [] ∧
        (∀ w, w ≠ r → u.req w = s.req w) ∧ (∀ k, k ≠ x.aperture → u.ap k = s.ap k) ∧
        (∀ v, v ≠ t → u.tag v = s.tag v) ∧ u.checkpoints = s.checkpoints ∧
        (e.kind = .map →
          (u.req r).queuedWrites = 1 ∧ (u.ap x.aperture).inFlight = (s.ap x.aperture).inFlight + 1 ∧
          u.reports = s.reports ∧
          u.out.mem = [{ tag := t, kind := .mwrite, length := len.toNat, data := data, address := address }]) ∧
        (e.kind = .zero →
          u.postQueue = [] ∧ (u.req r).completed = q ∧ (u.req r).lossFlag = (s.req r).lossFlag ∧
          u.reports = s.reports ∧ u.out.mem = [] ∧ u.ap x.aperture = s.ap x.aperture) ∧
        (e.kind = .rom ∨ e.kind = .guard →
          u.postQueue = [] ∧ (u.req r).completed = q ∧ (u.req r).lossFlag = true ∧ u.out.mem = [] ∧
          u.ap x.aperture = { s.ap x.aperture with faultCount := min 255 ((s.ap x.aperture).faultCount + 1) } ∧
          (s.reports.length < 16 → u.reports = s.reports ++
            [{ kind := .writeLost, cause := some (if e.kind = .rom then .romWrite else .guardHit), requester := some r
               sequence := some q, address := some a, aperture := some x.aperture
               generation := some (s.ap x.aperture).generation, windowOffset := some x.offset
               extentIndex := some e.extentIndex }]))) ∧
    ∀ (j : Fin 32) (t' : TagId),
      let b := e.start + e.length
      let e' := s.cached j
      let address' := BitVec.ofNat 40 (e'.target.toNat + (b - e'.start))
      e.kind = .map → e'.kind = .map → b < x.offset + len.toNat → Cached x.aperture b j s →
      x.offset + len.toNat ≤ e'.start + e'.length → NextLowest t t' s →
      ∃ u, exec (.write r a len lanes en) s = .next u ∧ u.out.bus = some { code := .taken } ∧
        u.out.mem =
          [{ tag := t, kind := .mwrite, length := b - x.offset, data := data.take (b - x.offset), address := address },
            { tag := t', kind := .mwrite, length := x.offset + len.toNat - b, data := data.drop (b - x.offset)
              address := address' }] ∧
        u.postQueue.map (·.core.pieces) =
          [[{ index := 0, offset := 0, length := b - x.offset, extentIndex := some e.extentIndex, kind := .map
              target := some address, generation := some (s.ap x.aperture).generation, state := .issued },
            { index := 1, offset := b - x.offset, length := x.offset + len.toNat - b
              extentIndex := some e'.extentIndex, kind := .map, target := some address'
              generation := some (s.ap x.aperture).generation, state := .issued }]] ∧
        (u.req r).taken = q ∧ (u.req r).queuedWrites = 1 ∧ (u.cached j).rank = 0 ∧ Untouched s u ∧
        u.slots = s.slots ∧ u.missQueue = [] ∧ u.reports = s.reports ∧
        (u.ap x.aperture).inFlight = (s.ap x.aperture).inFlight + 1 ∧ (∀ w, w ≠ r → u.req w = s.req w) ∧
        (∀ k, k ≠ x.aperture → u.ap k = s.ap k) ∧ ∀ v, v ≠ t → v ≠ t' → u.tag v = s.tag v) ∧
  ∀ (r : ReqId) (a : Addr) (len : BitVec 7) (lanes : Lanes) (en : BitVec 64) (x : Place) (s : State),
    Idle s → Admitted true r a len.toNat (some x) s → (s.req r).queuedWrites = 0 → 1 ≤ (s.req r).postedLimit →
    Uncached x.aperture x.offset s →
    let q := (s.req r).taken + 1
    let g := (s.ap x.aperture).generation
    ∃ u w, exec (.write r a len lanes en) s = .next u ∧ u.out.bus = some { code := .taken } ∧
      u.postQueue = [{
        core := { requester := r, address := a, length := len.toNat, place := some x, age := s.nextAge
                  progress := some { nextPiece := 0, nextOffset := x.offset, endOffset := x.offset + len.toNat
                                     generation := g, waiting := .attached } }
        sequence := q, data := bytesOfLanes a len.toNat lanes, state := .translating }] ∧
      u.missQueue = [w] ∧ w.aperture = x.aperture ∧ w.generation = g ∧ w.target = x.offset ∧
      w.waiters = [(.entry r q, 0)] ∧ w.settlingMark = false ∧
      (engineAvailable 0 s = true → ∃ y, w.walk = some y ∧ y.engine = 0) ∧
      ((∀ e, engineAvailable e s = false) → w.walk = none ∧ u.out.mem = []) ∧
      (u.req r).taken = q ∧ (u.req r).queuedWrites = 1 ∧ u.reports = s.reports ∧ u.cache = s.cache ∧ Untouched s u ∧
      u.slots = s.slots ∧ u.unqueued = [] ∧ (u.ap x.aperture).inFlight = (s.ap x.aperture).inFlight + 1 ∧
      (∀ w, w ≠ r → u.req w = s.req w) ∧ (∀ k, k ≠ x.aperture → u.ap k = s.ap k) ∧
      ∀ v, tagClass v ≠ .walk → u.tag v = s.tag v

/-- The same for a READ with nothing queued (R9, R55, R113 to R116, R118): MAP and ROM read memory at the target plus the
offset, ZERO is READY with zeros in the event of its opening, and GUARD fails the slot; the answer is RETRY in each
case. Target bytes that pass the end of a 64-byte line are read by one MREAD all the same (R10, R55 and R115 over R138: the
model's choice, log entry 17). And a READ whose first byte is in no cached extent, while a walk of the same 256-byte block,
aperture and generation
runs (R57, R60): its slot waits TRANSLATING among that walk's waiters, and no memory operation is issued. That the
lowest-numbered EMPTY slot is taken is the model's choice, which has no effect (R113, log entry 11).
That the poison indicator is clear with RETRY, as the whole response has it, is the model's choice (log entry 19). -/
def Obligations.CachedExtentsDecideARead : Prop :=
  (∀ (r : ReqId) (a : Addr) (len : BitVec 7) (x : Place) (i : Fin 32) (t : TagId) (s : State),
    Idle s → Admitted false r a len.toNat (some x) s → (s.req r).queuedWrites = 0 →
    (s.req r).openSlots < (s.req r).slotLimit →
    (s.ap x.aperture).state = .active → Lowest .data t s → Cached x.aperture x.offset i s →
    x.offset + len.toNat ≤ (s.cached i).start + (s.cached i).length →
    let e := s.cached i
    let address := BitVec.ofNat 40 (e.target.toNat + (x.offset - e.start))
    ∃ u c, exec (.read r a len) s = .next u ∧ u.out.bus = some { code := .retry } ∧ u.slot 0 = some c ∧
      (u.cached i).rank = 0 ∧ (u.ap x.aperture).inFlight = (s.ap x.aperture).inFlight + 1 ∧ Untouched s u ∧
      (∀ m, m ≠ 0 → u.slot m = none) ∧ u.postQueue = [] ∧ u.missQueue = [] ∧
      u.req r = { s.req r with openSlots := (s.req r).openSlots + 1 } ∧ (∀ w, w ≠ r → u.req w = s.req w) ∧
      (∀ k, k ≠ x.aperture → u.ap k = s.ap k) ∧ (∀ v, v ≠ t → u.tag v = s.tag v) ∧ u.checkpoints = s.checkpoints ∧
      (e.kind = .map ∨ e.kind = .rom →
        c.state = .reading ∧ u.reports = s.reports ∧
        u.out.mem = [{ tag := t, kind := .mread, length := len.toNat, data := [], address := address }]) ∧
      (e.kind = .zero →
        c.state = .ready ∧ c.data = List.replicate len.toNat 0 ∧ c.timer = some s.settings.discardInterval ∧
        u.reports = s.reports ∧ u.out.mem = []) ∧
      (e.kind = .guard →
        c.state = .failed ∧ c.timer = some s.settings.discardInterval ∧ u.out.mem = [] ∧
        (u.ap x.aperture).faultCount = min 255 ((s.ap x.aperture).faultCount + 1) ∧
        (s.reports.length < 16 → u.reports = s.reports ++
          [{ kind := .readFailed, cause := some .guardHit, requester := some r, address := some a
             aperture := some x.aperture, generation := some (s.ap x.aperture).generation
             windowOffset := some x.offset, extentIndex := some e.extentIndex }]))) ∧
  ∀ (r : ReqId) (a : Addr) (len : BitVec 7) (x : Place) (w : WalkRequest) (s : State),
    s.postQueue = [] → (∀ n, s.slot n = none) → s.unqueued = [] → s.jobs = [] → s.parked = [] →
    Admitted false r a len.toNat (some x) s → (s.req r).openSlots < (s.req r).slotLimit →
    Uncached x.aperture x.offset s → s.missQueue = [w] → w.walk.isSome = true → w.aperture = x.aperture →
    w.generation = (s.ap x.aperture).generation → w.target / 256 = x.offset / 256 →
    ∃ u c waiters, exec (.read r a len) s = .next u ∧ u.out = { bus := some { code := .retry } } ∧
      u.slot 0 = some c ∧ c.state = .translating ∧ c.core.place = some x ∧ c.core.pieces = [] ∧
      c.core.progress = some { nextPiece := 0, nextOffset := x.offset, endOffset := x.offset + len.toNat
                               generation := w.generation, waiting := .attached } ∧
      u.missQueue = [{ w with waiters := waiters }] ∧ (∀ z, z ∈ waiters ↔ z ∈ w.waiters ∨ z = (.slot 0, 0)) ∧
      u.tags = s.tags ∧ u.cache = s.cache ∧ u.reports = s.reports ∧ Untouched s u ∧ u.postQueue = [] ∧
      (∀ m, m ≠ 0 → u.slot m = none) ∧ u.req r = { s.req r with openSlots := (s.req r).openSlots + 1 } ∧
      (∀ w, w ≠ r → u.req w = s.req w) ∧ (u.ap x.aperture).inFlight = (s.ap x.aperture).inFlight + 1 ∧
      ∀ k, k ≠ x.aperture → u.ap k = s.ap k

/-- The starting point of a walk to a target (R64): the largest valid checkpoint at or below it, or the resume point when
that lies in the same stride's run and at or below the target. -/
def Sys2Proof.Claims.StartsAt (x : Aperture) (places : Checkpoints) (target i o : Nat) : Prop :=
  ∃ (k : Fin 32) (off : Nat), places[k] = some off ∧ off ≤ target ∧
    (∀ (j : Fin 32) (off' : Nat), k < j → places[j] = some off' → target < off') ∧
    ((∃ h, x.resume = some h ∧ k.val * x.stride ≤ h.index ∧ h.index < (k.val + 1) * x.stride ∧ h.start ≤ target ∧
        i = h.index ∧ o = h.start) ∨
     ((∀ h, x.resume = some h →
        ¬(k.val * x.stride ≤ h.index ∧ h.index < (k.val + 1) * x.stride ∧ h.start ≤ target)) ∧
        i = k.val * x.stride ∧ o = off))

/-- The walk of a request on an engine as it starts at an entry and its offset (R64). -/
def Sys2Proof.Claims.walkFrom (e : EngineId) (x : Aperture) (i o : Nat) : Walk where
  engine := e
  listAddress := x.listAddress
  entryCount := x.entryCount
  listTag := x.listTag
  stride := x.stride
  index := i
  offset := o
  startIndex := i

/-- The read of the entries from `i` on in their 64-byte line (R65), keeping the index of the list's first entry in that
line (R140). -/
def Sys2Proof.Claims.walkRead (e : EngineId) (w : WalkRequest) (list : Addr) (count i : Nat) : Op :=
  let a := list.toNat
  let line := (a + 16 * i) / 64
  { cls := .walk, owner := some (.walk e), kind := .mread
    address := BitVec.ofNat 40 (a + 16 * i)
    length := 16 * min (count - i) ((64 - (a + 16 * i) % 64) / 16)
    fields := { aperture := some w.aperture, generation := some w.generation
                extentIndex := some (if line = a / 64 then 0 else (64 * line - a) / 16) } }

/-- WALK_START (R63, R64, R65, R140): an available engine takes the oldest QUEUED request, also with younger ones QUEUED
behind it; with both available engine 0 takes the oldest and engine 1 the next; the walk records the list as it stands,
starts at the point of R64, and reads from entry i to the end of its line or list under the engine's tag. The extent index
that the read keeps is that of the list's first entry in the line, also when it starts at a later one (DEDUCED, log entry 9).
With no request QUEUED, or no engine available, nothing happens (as a command: the model's choice, log entry 1). -/
def Obligations.AnEngineTakesTheOldestRequest : Prop :=
  (∀ (e : EngineId) (before after : List WalkRequest) (w : WalkRequest) (s : State),
    s.missQueue = before ++ w :: after → w.walk = none → (∀ y ∈ before, y.walk.isSome = true) →
    engineAvailable e s = true → (∀ f, f ≠ e → engineAvailable f s = false) →
    (s.places w.aperture)[(0 : Fin 32)] = some 0 →
    let x := s.ap w.aperture
    ∃ i o, StartsAt x (s.places w.aperture) w.target i o ∧
      exec .walkStart s = .next (issue ⟨e.val, by omega⟩ (walkRead e w x.listAddress x.entryCount i)
        { unmoved s with missQueue := before ++ { w with walk := some (walkFrom e x i o) } :: after })) ∧
  (∀ (w w' : WalkRequest) (after : List WalkRequest) (s : State),
    s.missQueue = w :: w' :: after → w.walk = none → w'.walk = none → (∀ e, engineAvailable e s = true) →
    (s.places w.aperture)[(0 : Fin 32)] = some 0 → (s.places w'.aperture)[(0 : Fin 32)] = some 0 →
    let x := s.ap w.aperture
    let x' := s.ap w'.aperture
    ∃ i o i' o', StartsAt x (s.places w.aperture) w.target i o ∧
      StartsAt x' (s.places w'.aperture) w'.target i' o' ∧
      exec .walkStart s = .next (issue 1 (walkRead 1 w' x'.listAddress x'.entryCount i')
        (issue 0 (walkRead 0 w x.listAddress x.entryCount i)
        { unmoved s with missQueue :=
            { w with walk := some (walkFrom 0 x i o) } :: { w' with walk := some (walkFrom 1 x' i' o') } :: after }))) ∧
  (∀ (w : WalkRequest) (after : List WalkRequest) (s : State),
    s.missQueue = w :: after → w.walk = none → (∀ y ∈ after, y.walk.isSome = true) →
    (∀ e, engineAvailable e s = true) → (s.places w.aperture)[(0 : Fin 32)] = some 0 →
    let x := s.ap w.aperture
    ∃ i o, StartsAt x (s.places w.aperture) w.target i o ∧
      exec .walkStart s = .next (issue 0 (walkRead 0 w x.listAddress x.entryCount i)
        { unmoved s with missQueue := { w with walk := some (walkFrom 0 x i o) } :: after })) ∧
  ∀ s : State,
    ((∀ w ∈ s.missQueue, w.walk.isSome = true) ∨ (∀ e, engineAvailable e s = false)) →
    exec .walkStart s = .next (unmoved s)

/-- A walk on an engine with its read in flight, at the front of the miss queue, the bridge running and no job. -/
structure Sys2Proof.Claims.Walking (e : EngineId) (op : Op) (w : WalkRequest) (x : Walk) (rest : List WalkRequest)
    (s : State) : Prop where
  up : s.resetLow = false
  going : s.quiescing = false
  misses : s.missQueue = w :: rest
  walk : w.walk = some x
  engine : x.engine = e
  others : ∀ y ∈ rest, ∀ z, y.walk = some z → z.engine ≠ e
  mark : w.settlingMark = false
  unqueued : s.unqueued = []
  jobs : s.jobs = []
  tag : s.tag ⟨e.val, by omega⟩ = .outstanding op
  owner : op.owner = some (.walk e)
  live : op.cancelled = false

/-- A walk whose outcome is current (R67): of its aperture's generation, and no fault has dropped its result (R21). -/
structure Sys2Proof.Claims.CurrentWalk (e : EngineId) (op : Op) (w : WalkRequest) (x : Walk) (rest : List WalkRequest)
    (s : State) : Prop extends Walking e op w x rest s where
  kept : w.dropped = false
  current : w.generation = (s.ap w.aperture).generation

/-- No post entry, no slot, and no request QUEUED: an event at the walker meets no other traffic. -/
structure Sys2Proof.Claims.NoOwners (rest : List WalkRequest) (s : State) : Prop where
  entries : s.postQueue = []
  slots : ∀ n : SlotId, s.slot n = none
  running : ∀ y ∈ rest, y.walk.isSome = true

/-- The total length of some entries. -/
def Sys2Proof.Claims.lengthOf (es : List RawEntry) : Nat := (es.map fun e => 16 * e.units).sum

/-- The entries that an OK response to a walk's read carries (R65). -/
def Sys2Proof.Claims.walkEntries (op : Op) (lanes : Lanes) : List RawEntry :=
  entriesOf (op.length / 16) (bytesOfLanes op.address op.length lanes)

/-- Step 1 of R66 passes at entry `i` with running offset `o`: at a stride boundary other than the walk's starting index, the
checkpoint place is valid and holds that offset. -/
def Sys2Proof.Claims.OnCheckpoint (x : Walk) (places : Checkpoints) (i o : Nat) : Prop :=
  i % x.stride = 0 → i ≠ x.startIndex → places[i / x.stride]? = some (some o)

/-- The target lies in an entry at running offset `o` (R66 step 3). -/
def Sys2Proof.Claims.CoversTarget (w : WalkRequest) (o : Nat) (en : RawEntry) : Prop :=
  o ≤ w.target ∧ w.target < o + 16 * en.units

/-- A walk goes past the first `m` of the entries before it (R66): each is on its checkpoint, good, short of the target, and
not the list's last. -/
def Sys2Proof.Claims.PassesTo (w : WalkRequest) (x : Walk) (places : Checkpoints) (es : List RawEntry) (m : Nat) : Prop :=
  m ≤ es.length ∧ ∀ j en, j < m → es[j]? = some en →
    let o := x.offset + lengthOf (es.take j)
    OnCheckpoint x places (x.index + j) o ∧ checkEntry x.listTag en = none ∧ ¬CoversTarget w o en ∧
      x.index + j + 1 ≠ x.entryCount

/-- A walk finds its target's extent at the `m`-th of the entries before it (R66 step 3). -/
def Sys2Proof.Claims.FindsAt (w : WalkRequest) (x : Walk) (places : Checkpoints) (es : List RawEntry) (m : Nat)
    (en : RawEntry) : Prop :=
  let o := x.offset + lengthOf (es.take m)
  PassesTo w x places es m ∧ es[m]? = some en ∧ OnCheckpoint x places (x.index + m) o ∧
    checkEntry x.listTag en = none ∧ CoversTarget w o en

/-- A walk ends with a finding in the entries before it (R66): its cause, sub-reason and index. LIST_CHANGED at a stride
boundary whose checkpoint does not hold the running offset; BAD_ENTRY at a bad entry; LIST_CHANGED at the last entry where
the list ends short of the target. -/
def Sys2Proof.Claims.FindsWrong (w : WalkRequest) (x : Walk) (places : Checkpoints) (es : List RawEntry) (c : Cause)
    (b : Option BadEntry) (i : Nat) : Prop :=
  ∃ m en, PassesTo w x places es m ∧ es[m]? = some en ∧
    let o := x.offset + lengthOf (es.take m)
    (¬OnCheckpoint x places (x.index + m) o ∧ c = .listChanged ∧ b = none ∧ i = x.index + m) ∨
    (OnCheckpoint x places (x.index + m) o ∧
      ((∃ d, checkEntry x.listTag en = some d ∧ c = .badEntry ∧ b = some d ∧ i = x.index + m) ∨
       (checkEntry x.listTag en = none ∧ ¬CoversTarget w o en ∧ x.index + m + 1 = x.entryCount ∧
        c = .listChanged ∧ b = none ∧ i = x.entryCount - 1)))

/-- A post entry TRANSLATING, not marked, with the pieces before its next one translated. -/
structure Sys2Proof.Claims.Translating (p : PostEntry) (g : Progress) (y : Place) : Prop where
  state : p.state = .translating
  progress : p.core.progress = some g
  generation : p.core.generation = none
  place : p.core.place = some y
  pieces : ∀ z ∈ p.core.pieces, z.state = .pending
  mark : p.core.settlingMark = false

/-- No memory operation belongs to an owner. -/
def Sys2Proof.Claims.NoOps (o : OwnerRef) (s : State) : Prop :=
  (∀ u op j, s.tag u = .outstanding op → op.owner ≠ some (.piece o j)) ∧
    ∀ z ∈ s.parked, ∀ j, z.op.owner ≠ some (.piece o j)

/-- A walk's line that holds its target's extent (R48 to R51, R61, R66 to R68), also past other entries and stride
boundaries whose checkpoints hold: the request leaves, the extent is in the cache for every offset it covers, also where an
entry of the same index is refreshed, and the resume point is set; the reports and every other aperture stand. A waiting write
that lies wholly in that extent, of kind MAP, looks up again and hits: it goes to memory in the same event, as one operation,
also where its target bytes pass the end of a 64-byte line (the model's choice, log entry 17). A line whose every entry is
passed (R65): the walk, at its new index and offset, issues the read of the next line under the same tag, and nothing else
changes. That the refreshed entry answers for every offset it covers, whatever other entries hold, is the model's reading
(DEDUCED, log entry 18). -/
def Obligations.AFindIsInstalled : Prop :=
  ∀ (e : EngineId) (op : Op) (w : WalkRequest) (x : Walk) (rest : List WalkRequest) (lanes : Lanes) (s : State),
    let es := walkEntries op lanes
    let own : TagId := ⟨e.val, by omega⟩
    (∀ (m : Nat) (en : RawEntry), CurrentWalk e op w x rest s → (s.ap w.aperture).state = .active →
      FindsAt w x (s.places w.aperture) es m en →
      let i := x.index + m
      let o := x.offset + lengthOf (es.take m)
      let aps (t : State) : Prop := ∀ k, t.ap k = if k = w.aperture
        then { s.ap k with resume := some { index := i, start := o } } else s.ap k
      (w.waiters = [] → NoOwners rest s →
        ∃ t, exec (.responseOk own lanes) s = .next t ∧
          t.missQueue = rest ∧ t.tag own = .free ∧ t.reports = s.reports ∧ t.out = {} ∧ Untouched s t ∧
          t.requesters = s.requesters ∧ t.checkpoints = s.checkpoints ∧ t.postQueue = [] ∧ t.slots = s.slots ∧
          (∀ u, u ≠ own → t.tag u = s.tag u) ∧ aps t ∧
          ∀ off, o ≤ off → off < o + 16 * en.units →
            ∃ j, lookup w.aperture w.generation off t = some j ∧
              (t.cached j).extentIndex = i ∧ (t.cached j).start = o ∧ (t.cached j).length = 16 * en.units ∧
              (t.cached j).target = en.target ∧ some (t.cached j).kind = kindOfCode en.kindCode ∧
              (t.cached j).rank = 0) ∧
      ∀ (p : PostEntry) (y : Place) (d : TagId),
        let address := BitVec.ofNat 40 (en.target.toNat + (y.offset - o))
        rest = [] → s.postQueue = [p] → (∀ n, s.slot n = none) → s.parked = [] → p.core.pieces = [] →
        y.aperture = w.aperture → w.waiters = [(p.ref, 0)] →
        Translating p { nextPiece := 0, nextOffset := y.offset, endOffset := y.offset + p.core.length
                        generation := w.generation, waiting := .attached } y →
        o ≤ y.offset → y.offset < o + 16 * en.units → y.offset + p.core.length ≤ o + 16 * en.units →
        en.kindCode = 0 → Lowest .data d s →
        ∃ t, exec (.responseOk own lanes) s = .next t ∧
          t.out.mem = [{ tag := d, kind := .mwrite, address := address, length := p.core.length
                         data := p.data.take p.core.length }] ∧
          t.postQueue = [{ p with
            state := .issued
            core := { p.core with
              progress := none, generation := some w.generation
              pieces := [{ index := 0, offset := 0, length := p.core.length, extentIndex := some i, kind := .map
                           target := some address, generation := some w.generation, state := .issued }] } }] ∧
          t.missQueue = [] ∧ t.tag own = .free ∧ t.reports = s.reports ∧ Untouched s t ∧
          t.requesters = s.requesters ∧ t.slots = s.slots ∧ aps t) ∧
    (Walking e op w x rest s → NoOwners rest s → PassesTo w x (s.places w.aperture) es es.length →
      let i := x.index + es.length
      exec (.responseOk own lanes) s = .next (issue own (walkRead e w x.listAddress x.entryCount i)
        { unmoved s with missQueue :=
          { w with walk := some { x with index := i, offset := x.offset + lengthOf es } } :: rest }))

/-- The failure of an owner at translation: the cause, its own window offset and the generation of its progress (R102,
R118). -/
def Sys2Proof.Claims.failureOn (cause : Cause) (g : Progress) (y : Place) : Failure where
  cause := cause
  windowOffset := some y.offset
  generation := some g.generation

/-- A walk that finds its list changed (R19 to R23, R66, R67, R69): a bad entry, a stride boundary off its checkpoint, or a
list that ends short of the target. It faults an ACTIVE aperture, or one SETTLING, with APERTURE_FAULTED, the cause, sub-reason
and index: its cache entries are invalid, its resume point and settling count go, its list, generation and counts stay, and
another walk of it running is marked, its result to be dropped. One VALIDATING faults likewise, and its job is cancelled, WAITING
or RUNNING, its reads in BACKOFF ended and those OUTSTANDING left to the port, with REBIND_FAILED (ABORTED) posted last. Owners
not fully translated are withdrawn, their reports in age order after APERTURE_FAULTED: a write leaves lost, a slot is FAILED with
READ_FAILED, its pieces ENDED, and the QUEUED requests go; a write behind another of its requester stays FAILED, its pieces
ENDED without their targets (log entry 21). A DRAINING aperture with an owner left is not faulted and reports
nothing, but for a waiting write, which is lost with the finding. A walk whose result was dropped changes nothing as it
ends, also when a RETIRE has followed (DEDUCED: R21 before R67, log entry 20). (That a timeout as a command is the expiry
whatever ticks are left: the model's choice, log entry 7.) -/
def Obligations.AFindingFaultsTheAperture : Prop :=
  ∀ (e : EngineId) (op : Op) (w : WalkRequest) (x : Walk) (rest : List WalkRequest) (lanes : Lanes) (why : Cause)
      (b : Option BadEntry) (at' : Nat) (s : State),
    let k := w.aperture
    let own : TagId := ⟨e.val, by omega⟩
    let faulted : Report :=
      { kind := .apertureFaulted, cause := some why, sub := b.map SubReason.bad, aperture := some k
        generation := some w.generation, extentIndex := some at' }
    let emptied (i : Fin 32) : CacheEntry :=
      if (s.cached i).aperture = k then { s.cached i with valid := false } else s.cached i
    let fault (t : State) : Prop :=
      t.missQueue = rest.map (fun y =>
        if y.aperture = k then { y with settlingMark := false, dropped := true } else y) ∧
      t.tag own = .free ∧ t.requesters = s.requesters ∧ t.checkpoints = s.checkpoints ∧ t.postQueue = [] ∧ t.slots = s.slots ∧
      t.out = {} ∧ (∀ j, t.ap j = if j = k
        then { s.ap k with state := .faulted, pendingList := none, settling := 0, resume := none } else s.ap j) ∧
      ∀ i, t.cached i = emptied i
    FindsWrong w x (s.places k) (walkEntries op lanes) why b at' →
    (CurrentWalk e op w x rest s → NoOwners rest s → (s.ap k).state = .active ∨ (s.ap k).state = .rebinding .settling →
      ∃ t, exec (.responseOk own lanes) s = .next t ∧ fault t ∧ Untouched s t ∧ (∀ u, u ≠ own → t.tag u = s.tag u) ∧
        (s.reports.length < 16 → t.reports = s.reports ++ [faulted])) ∧
    (∀ j : Job, CurrentWalk e op w x rest { s with jobs := [], validation := none } → NoOwners rest s →
      (s.ap k).state = .rebinding .validating → j.aperture = k →
      let failed : Report :=
        { kind := .rebindFailed, cause := some .aborted, aperture := some k, generation := some w.generation }
      (s.jobs = [j] → j.running = true →
        ∃ t, exec (.responseOk own lanes) s = .next t ∧ fault t ∧
          Untouched { s with jobs := [], validation := none } t ∧
          (∀ u, u ≠ own → ∀ o n, s.tag u = .outstanding o → o.owner = some (.line n) →
            t.tag u = .outstanding { o with cancelled := true, owner := none }) ∧
          (∀ u, u ≠ own → (∀ o n, s.tag u = .outstanding o → o.owner ≠ some (.line n)) → t.tag u = s.tag u) ∧
          (∀ z, z ∈ t.parked ↔ z ∈ s.parked ∧ ∀ n, z.op.owner ≠ some (.line n)) ∧
          (s.reports.length < 15 → t.reports = s.reports ++ [faulted, failed])) ∧
      ∀ (first : Job) (before after : List Job), s.jobs = first :: (before ++ j :: after) → first.running = true →
        j.running = false → (∀ y ∈ first :: (before ++ after), y.aperture ≠ k) → NoneFree .validation s →
        ∃ t, exec (.responseOk own lanes) s = .next t ∧ fault t ∧
          Untouched { s with jobs := first :: (before ++ after) } t ∧ (∀ u, u ≠ own → t.tag u = s.tag u) ∧
          t.parked = s.parked ∧
          (s.reports.length < 15 → t.reports = s.reports ++ [faulted, failed])) ∧
    (∀ (p : PostEntry) (g : Progress) (y : Place) (n : SlotId) (c : Slot) (h : Progress) (z : Place) (i j : Nat)
        (w' : WalkRequest),
      CurrentWalk e op w x rest s → (s.ap k).state = .active →
      s.postQueue = [p] → Translating p g y → y.aperture = k → w.waiters = [(p.ref, i)] → NoOps p.ref s →
      s.slot n = some c → (∀ m, m ≠ n → s.slot m = none) → c.state = .translating → c.fenceMet = true →
      c.core.progress = some h → c.core.generation = none → c.core.place = some z → z.aperture = k →
      (∀ q ∈ c.core.pieces, q.state = .pending) → c.core.settlingMark = false → NoOps (.slot n) s →
      rest = [w'] → w'.walk = none → w'.aperture = k → w'.waiters = [(.slot n, j)] → p.core.age ≠ c.core.age →
      ∃ t, exec (.responseOk own lanes) s = .next t ∧ t.missQueue = [] ∧ t.postQueue = [] ∧
        t.slot n = some (failedSlot { c with core := { c.core with progress := none } }
          (failureOn .withdrawn h z) (c.core.pieces.map fun q => { q with state := .ended }) s) ∧
        (∀ m, m ≠ n → t.slot m = none) ∧ t.tag own = .free ∧ (∀ u, u ≠ own → t.tag u = s.tag u) ∧ Untouched s t ∧
        (t.req p.core.requester).lossFlag = true ∧ (t.req p.core.requester).completed = p.sequence ∧
        (t.req p.core.requester).queuedWrites = (s.req p.core.requester).queuedWrites - 1 ∧
        (∀ r, r ≠ p.core.requester → t.req r = s.req r) ∧
        (∀ a, t.ap a = if a = k
          then { s.ap k with
            state := .faulted, pendingList := none, settling := 0, resume := none
            inFlight := (s.ap k).inFlight - 1, faultCount := min 255 ((s.ap k).faultCount + 2) }
          else s.ap a) ∧
        (∀ a, t.cached a = emptied a) ∧
        (s.reports.length < 14 →
          let ofWrite : Report :=
            { kind := .writeLost, cause := some .withdrawn, requester := some p.core.requester
              sequence := some p.sequence, address := some p.core.address, aperture := some k
              generation := some g.generation, windowOffset := some y.offset }
          let ofRead := readFailed c.core (failureOn .withdrawn h z)
          t.reports = s.reports ++ faulted ::
            (if p.core.age < c.core.age then [ofWrite, ofRead] else [ofRead, ofWrite]))) ∧
    (∀ (p p' : PostEntry) (g : Progress) (y : Place) (i : Nat),
      CurrentWalk e op w x rest s → (s.ap k).state = .active → rest = [] → s.postQueue = [p', p] →
      p'.core.requester = p.core.requester → p'.sequence ≠ p.sequence → p'.state = .issued →
      p'.core.progress = none → p'.core.settlingMark = false → (∀ q ∈ p'.core.pieces, q.state = .issued) →
      Translating p g y → y.aperture = k → w.waiters = [(p.ref, i)] → NoOps p.ref s → (∀ n, s.slot n = none) →
      (∀ z ∈ s.parked, z.waiting = false) →
      ∃ t, exec (.responseOk own lanes) s = .next t ∧
        t.postQueue = [p', { p with
          state := .failed
          core := { p.core with
            progress := none, failure := some (failureOn .withdrawn g y)
            pieces := p.core.pieces.map fun q => { q with state := .ended, target := none, generation := none } } }] ∧
        t.missQueue = [] ∧ t.requesters = s.requesters ∧ t.slots = s.slots ∧ Untouched s t ∧ t.tag own = .free ∧
        (∀ u, u ≠ own → t.tag u = s.tag u) ∧ (∀ a, t.cached a = emptied a) ∧
        (∀ a, t.ap a = if a = k
          then { s.ap k with state := .faulted, pendingList := none, settling := 0, resume := none }
          else s.ap a) ∧
        (s.reports.length < 16 → t.reports = s.reports ++ [faulted])) ∧
    (CurrentWalk e op w x rest s → (s.ap k).state = .draining → inFlightCounted s → waitingRead s = none →
      (∃ n c, s.slot n = some c ∧ (c.core.place.map (·.aperture)) = some k) → (∀ y ∈ rest, y.walk.isSome = true) →
      (s.postQueue = [] → w.waiters = [] →
        exec (.responseOk own lanes) s = .next (setTag own .free { unmoved s with missQueue := rest })) ∧
      ∀ (p : PostEntry) (g : Progress) (y : Place) (i : Nat),
        s.postQueue = [p] → Translating p g y → y.aperture = k → w.waiters = [(p.ref, i)] → NoOps p.ref s →
        (∀ n c, s.slot n = some c → c.fenceMet = true) → (∀ v ∈ rest, ∀ u ∈ v.waiters, u.1 ≠ p.ref) →
        exec (.responseOk own lanes) s = .next (lost p
          { failureOn why g y with sub := b, extentIndex := some at' }
          (setTag own .free { unmoved s with missQueue := rest }))) ∧
    ∀ i u, Walking e op w x rest s → w.dropped = true → s.postQueue = [] → w.waiters = [] → waitingRead s = none →
      (∀ y ∈ rest, y.walk.isSome = true) →
      (s.ap k).state = .faulted ∨ ((s.ap k).state = .draining ∧ inFlightCounted s ∧
        ∃ n c, s.slot n = some c ∧ (c.core.place.map (·.aperture)) = some k) →
      (i = .responseOk own lanes ∧ u = .free) ∨
        (∃ found m en, i = .responseOk own found ∧
          FindsAt w x (s.places k) (walkEntries op found) m en ∧ u = .free) ∨
        (∃ c, Fails own op i c u s) →
      exec i s = .next (setTag own u { unmoved s with missQueue := rest })

/-- A failed walk read (R70, R98, R100 to R102): the waiting write, its requester's only one, is lost with the memory
cause, its own window offset and the walk's tag; the aperture's state and list stand. (That a timeout as a command is the
expiry whatever ticks are left: log entry 7.) -/
def Obligations.AFailedWalkReadLosesItsWaiter : Prop :=
  ∀ (e : EngineId) (op : Op) (w : WalkRequest) (x : Walk) (p : PostEntry) (i : Nat) (g : Progress) (y : Place)
      (cmd : Instr) (c : Cause) (u : TagState) (s : State),
    CurrentWalk e op w x [] s → w.waiters = [(p.ref, i)] → s.postQueue = [p] → Translating p g y →
    y.aperture = w.aperture → NoOps p.ref s → (∀ n, s.slot n = none) → (s.ap w.aperture).state = .active →
    let own : TagId := ⟨e.val, by omega⟩
    Fails own op cmd c u s →
    exec cmd s = .next (lost p { failureOn c g y with tag := some own }
      (setTag own u { unmoved s with missQueue := [] }))

/-- UNQUEUED_REOFFER (R55, R57, R61): the one unqueued piece, a write's, looks up again and joins the miss queue, with a
walk started on the free engine 0; with none unqueued and nothing else waiting, nothing happens (as a command: the model's
choice, log entry 1). -/
def Obligations.UnqueuedPiecesAreOfferedAgain : Prop :=
  (∀ (u : Unqueued) (p : PostEntry) (g : Progress) (y : Place) (s : State),
    s.quiescing = false → s.unqueued = [u] → u.owner = p.ref → s.postQueue = [p] → p.state = .translating →
    p.core.progress = some g → p.core.place = some y → (∀ n, s.slot n = none) → s.missQueue = [] → s.jobs = [] →
    s.parked = [] → (∀ i, ¬((s.cached i).hits y.aperture (s.ap y.aperture).generation g.nextOffset = true)) →
    ∃ t w x, exec .unqueuedReoffer s = .next t ∧ t.unqueued = [] ∧
      t.postQueue = [{ p with core := { p.core with progress := some { g with waiting := .attached } } }] ∧
      t.missQueue = [w] ∧ w.aperture = y.aperture ∧ w.generation = g.generation ∧ w.target = g.nextOffset ∧
      w.waiters = [(p.ref, g.nextPiece)] ∧
      (engineAvailable 0 s = true → w.walk = some x ∧ x.engine = 0) ∧
      ((∀ e, engineAvailable e s = false) → w.walk = none) ∧
      t.reports = s.reports ∧ t.apertures = s.apertures ∧ t.requesters = s.requesters ∧ t.cache = s.cache ∧
      Untouched s t ∧ t.slots = s.slots ∧ (∀ u, tagClass u ≠ .walk → t.tag u = s.tag u)) ∧
  ∀ s : State, NothingWaits s → s.unqueued = [] → s.postQueue = [] → exec .unqueuedReoffer s = .next (unmoved s)

/-! ## Validation -/

/-- R8 passes an entry exactly when it is valid, its target is on a unit, its length is not 0, its kind is one of the
four, its tag is the list's, and a MAP or ROM extent ends inside the address space; otherwise its sub-reason is the first of
these, in that order, that fails; and the 16 bytes of R176 spell it. -/
def Obligations.EntryChecksAndLayout : Prop :=
  (∀ (tag : Byte) (e : RawEntry), checkEntry tag e = none ↔
    e.valid = true ∧ e.target.toNat % 16 = 0 ∧ e.units ≠ 0 ∧ e.kindCode.toNat ≤ 3 ∧ e.tag = tag ∧
      (e.kindCode = 0 ∨ e.kindCode = 2 → e.target.toNat + 16 * e.units ≤ 2 ^ 40)) ∧
  (∀ (tag : Byte) (e : RawEntry), checkEntry tag e =
    if e.valid = false then some .notValid
    else if e.target.toNat % 16 ≠ 0 then some .misaligned
    else if e.units = 0 then some .zeroLength
    else if 3 < e.kindCode.toNat then some .badKind
    else if e.tag ≠ tag then some .tagMismatch
    else if (e.kindCode = 0 ∨ e.kindCode = 2) ∧ 2 ^ 40 < e.target.toNat + 16 * e.units then some .targetOverflow
    else none) ∧
  ∀ (target : Addr) (units : Nat) (kind tag flags : Byte) (rest : List Byte), units < 2 ^ 24 →
    decodeEntry (leBytes 5 target.toNat ++ leBytes 3 units ++ [kind, tag, flags] ++ rest) =
      { target := target, units := units, kindCode := kind, tag := tag, valid := flags.getLsbD 0 }

/-- A line of entries passes validation exactly when every entry passes R8 and the running sum stays within the window
(R34, R35); the engine then stands past them, and its build buffer holds, at each stride boundary among them, the offset
at which that entry begins (R29, R34). Otherwise the first offending entry fails it: BAD_ENTRY with the first sub-reason of
R8 that it meets, or, where it is good but the sum passes the window, TOO_LONG; with its own index (R34, R35, R38). -/
def Obligations.AListPassesEntryByEntry : Prop :=
  ∀ (tag : Byte) (window : Nat) (es : List RawEntry) (v : Validation),
    ((∀ w, checkEntries tag window es v = .passed w →
      (∀ e ∈ es, checkEntry tag e = none) ∧ w.offset = v.offset + lengthOf es ∧
      (es ≠ [] → w.offset ≤ window) ∧ w.nextEntry = v.nextEntry + es.length ∧
      (∀ j < es.length, (v.nextEntry + j) % v.stride = 0 → (v.nextEntry + j) / v.stride < 32 → 0 < v.stride →
        w.build[(v.nextEntry + j) / v.stride]? = some (some (v.offset + lengthOf (es.take j)))))) ∧
    ((∀ e ∈ es, checkEntry tag e = none) → v.offset + lengthOf es ≤ window →
      ∃ w, checkEntries tag window es v = .passed w) ∧
    ∀ (j : Nat) (h : j < es.length), (∀ e ∈ es.take j, checkEntry tag e = none) →
      v.offset + lengthOf (es.take j) ≤ window →
      (∀ b, checkEntry tag es[j] = some b → checkEntries tag window es v =
        .failed { cause := .badEntry, sub := some (.bad b), index := v.nextEntry + j, tag := none }) ∧
      (checkEntry tag es[j] = none → window < v.offset + lengthOf (es.take (j + 1)) → checkEntries tag window es v =
        .failed { cause := .tooLong, sub := none, index := v.nextEntry + j, tag := none })

/-- The job at the head of the queue as it begins (R28), and the read of its line (R30, R31). -/
def Sys2Proof.Claims.firstRecord (l : ListRef) (issued : Nat) : Validation where
  stride := strideOf l.count
  nextIssue := issued
  nextProcess := 0
  unprocessed := issued
  held := none
  failure := none
  nextEntry := 0
  offset := 0
  build := Vector.replicate 32 none

/-- The read that covers a job's entries in its line `k` (R30): line 0 from the list's address, the others from a line
boundary. -/
def Sys2Proof.Claims.lineRead (j : Job) (k : Nat) : Op :=
  let first := if k = 0 then 0 else (64 * (j.list.address.toNat / 64 + k) - j.list.address.toNat) / 16
  { cls := .validation, owner := some (.line k), kind := .mread
    address := BitVec.ofNat 40 (j.list.address.toNat + 16 * first)
    length := 16 * min (j.list.count - first) ((64 - (j.list.address.toNat + 16 * first) % 64) / 16)
    fields := { aperture := some j.aperture, extentIndex := some first } }

/-- No post entry, no slot and no walk request. -/
structure Sys2Proof.Claims.NoTraffic (s : State) : Prop where
  entries : s.postQueue = []
  slots : ∀ n : SlotId, s.slot n = none
  misses : s.missQueue = []

/-- A job, the only one, with the read of its line `k` in flight, and no operation in BACKOFF. -/
structure Sys2Proof.Claims.LineIn (t : TagId) (k : Nat) (op : Op) (j : Job) (v : Validation) (s : State) : Prop where
  up : s.resetLow = false
  going : s.quiescing = false
  jobs : s.jobs = [j]
  record : s.validation = some v
  line : op.owner = some (.line k)
  tag : s.tag t = .outstanding op
  live : op.cancelled = false
  parked : s.parked = []

/-- The entries of line `k` of a job's list in the bytes of its read (R30, R34). -/
def Sys2Proof.Claims.entriesAt (j : Job) (k : Nat) (bytes : List Byte) : List RawEntry :=
  entriesOf (entriesInLine j.list.address j.list.count (lineFirst j.list.address k)) bytes

/-- The number of the last line of a job's list, counted from 0 (R30). -/
def Sys2Proof.Claims.lastLine (j : Job) : Nat :=
  (j.list.address.toNat + 16 * (j.list.count - 1)) / 64 - j.list.address.toNat / 64

/-- What a LOAD's job that fails leaves of its aperture (R13): FREE, generation and fault count kept, no checkpoint. -/
def Sys2Proof.Claims.freed (k : ApId) (s : State) : State :=
  setPlaces k (Vector.replicate 32 none)
    (setAp k { generation := (s.ap k).generation, faultCount := (s.ap k).faultCount } s)

/-- The LOAD_FAILED of an aperture (R13, R38, R39). -/
def Sys2Proof.Claims.loadFailedReport (k : ApId) (f : JobFailure) : Report where
  kind := .loadFailed
  cause := some f.cause
  sub := f.sub
  aperture := some k
  extentIndex := some f.index
  tag := f.tag

/-- A job with the read of the line that is next to process in flight: no other operation is a line's, and no piece is
unqueued. -/
structure Sys2Proof.Claims.LastLine (t : TagId) (op : Op) (j : Job) (v : Validation) (s : State) : Prop
    extends LineIn t v.nextProcess op j v s where
  only : ∀ u op' k, s.tag u = .outstanding op' → op'.owner = some (.line k) → u = t
  unqueued : s.unqueued = []

/-- JOB_START and VALIDATION_READ_ISSUE (R28 to R31, R141): a job that reaches the head becomes RUNNING with a fresh
record and, both tags FREE, issues its first two lines, or its only one; a running job with one line unprocessed and
no failure recorded issues its next line under the lowest FREE validation tag (that it is the lowest is the model's
reading, log entry 6); with no job, no FREE validation tag, two lines unprocessed, a failure recorded or the last line
issued, no read is issued (as a command: the model's choice, log entry 1). After each line that it
processes the engine tests whether it can issue a read (R32): a line that passes, with lines left, brings the next read;
also when the line held after it then fails, and the job with it, that read goes out first and is left to the port (R40). A
line whose read ends out of turn waits (R32): an OK response's bytes become the held line, and a failure is recorded; no read
is issued from then on, and when the line before it has passed, the failure ends the job with that line's index and tag. (That a timeout as a command is
the expiry whatever ticks are left: the model's choice, log entry 7.) -/
def Obligations.JobsStartAndReadTheirLists : Prop :=
  (∀ (j : Job) (js : List Job) (s : State), s.jobs = j :: js → j.running = false → s.parked = [] →
    s.tag 2 = .free → s.tag 3 = .free → 1 ≤ j.list.count →
    let base := { unmoved s with jobs := { j with running := true } :: js }
    let more := (j.list.address.toNat + 16 * (j.list.count - 1)) / 64 - j.list.address.toNat / 64
    (0 < more → exec .jobStart s = .next (issue 3 (lineRead j 1) (issue 2 (lineRead j 0)
      { base with validation := some (firstRecord j.list 2) }))) ∧
    (more = 0 → exec .jobStart s = .next (issue 2 (lineRead j 0)
      { base with validation := some (firstRecord j.list 1) }))) ∧
  (∀ (j : Job) (js : List Job) (v : Validation) (t : TagId) (s : State), s.jobs = j :: js → s.parked = [] →
    s.validation = some v → Lowest .validation t s → v.failure = none →
    v.nextIssue ≤ (j.list.address.toNat + 16 * (j.list.count - 1)) / 64 - j.list.address.toNat / 64 →
    v.unprocessed = 1 →
    exec .validationReadIssue s = .next (issue t (lineRead j v.nextIssue)
      { unmoved s with validation := some { v with nextIssue := v.nextIssue + 1, unprocessed := 2 } })) ∧
  (∀ s : State, s.parked = [] →
    (s.jobs = [] → exec .jobStart s = .next (unmoved s)) ∧
    (s.jobs = [] ∨ NoneFree .validation s ∨
      (∃ v, s.validation = some v ∧ (2 ≤ v.unprocessed ∨ v.failure ≠ none)) ∨
      (∃ j js v, s.jobs = j :: js ∧ s.validation = some v ∧ lastLine j < v.nextIssue) →
      exec .validationReadIssue s = .next (unmoved s))) ∧
  (∀ (t : TagId) (k : Nat) (op : Op) (j : Job) (v : Validation) (s : State),
    LineIn t k op j v s → NoTraffic s → j.running = true → tagClass t = .validation → k ≠ v.nextProcess →
    v.unprocessed = 2 →
    (∀ lanes, exec (.responseOk t lanes) s = .next (setTag t .free { unmoved s with
      validation := some { v with held := some (k, bytesOfLanes op.address op.length lanes) } })) ∧
    ∀ i c x, Fails t op i c x s → ∃ m, c = MemCause.toCause m ∧
      exec i s = .next (setTag t x { unmoved s with
        validation := some { v with failure := some { line := k, cause := m, tag := t } } })) ∧
  (∀ (t : TagId) (op : Op) (j : Job) (v w : Validation) (f : LineFailure) (lanes : Lanes) (s : State),
    LastLine t op j v s → NoTraffic s → j.running = true → tagClass t = .validation → v.held = none →
    v.failure = some f → f.line = v.nextProcess + 1 →
    checkEntries j.list.tag (s.ap j.aperture).windowSize
      (entriesAt j v.nextProcess (bytesOfLanes op.address op.length lanes)) v = .passed w →
    w.nextEntry ≠ j.list.count → j.purpose = .load → (s.ap j.aperture).state = .loading →
    exec (.responseOk t lanes) s = .next (post
      (loadFailedReport j.aperture { cause := .memoryError, sub := some (.mem f.cause)
                                     index := lineFirst j.list.address f.line, tag := some f.tag })
      (freed j.aperture (setTag t .free { unmoved s with jobs := [], validation := none })))) ∧
  ∀ (t u : TagId) (op : Op) (j : Job) (v w : Validation) (lanes : Lanes) (s : State),
    LineIn t v.nextProcess op j v s → NoTraffic s → j.running = true → tagClass t = .validation → tagClass u = .validation → u ≠ t →
    v.failure = none → v.unprocessed = 2 → v.nextIssue ≤ lastLine j →
    checkEntries j.list.tag (s.ap j.aperture).windowSize
      (entriesAt j v.nextProcess (bytesOfLanes op.address op.length lanes)) v = .passed w →
    w.nextEntry ≠ j.list.count →
    (v.held = none → s.tag u ≠ .free →
      exec (.responseOk t lanes) s = .next (issue t (lineRead j v.nextIssue) { unmoved s with
        validation := some { w with nextProcess := v.nextProcess + 1, nextIssue := v.nextIssue + 1 } })) ∧
    ∀ bytes f, v.held = some (v.nextProcess + 1, bytes) → s.tag u = .free → j.purpose = .load →
      (s.ap j.aperture).state = .loading →
      checkEntries j.list.tag (s.ap j.aperture).windowSize (entriesAt j (v.nextProcess + 1) bytes) w = .failed f →
      ∃ z, exec (.responseOk t lanes) s = .next z ∧
        z.out.mem = [{ tag := 2, kind := .mread, address := (lineRead j v.nextIssue).address
                       length := (lineRead j v.nextIssue).length, data := [] }] ∧
        z.tag 2 = .outstanding { lineRead j v.nextIssue with
          timer := s.settings.responseLimit, cancelled := true, owner := none } ∧ z.tag 3 = .free ∧
        { z with tags := s.tags, out := s.out } = post (loadFailedReport j.aperture f)
          (freed j.aperture { s with jobs := [], validation := none })

/-- The entries that an OK response to the read of the next line carries (R30, R34). -/
def Sys2Proof.Claims.lineEntries (op : Op) (j : Job) (v : Validation) (lanes : Lanes) : List RawEntry :=
  entriesAt j v.nextProcess (bytesOfLanes op.address op.length lanes)

/-- The end of a LOAD's job (R13, R37 to R39): when its last entries pass, the aperture is ACTIVE with the list, its
length, stride and checkpoints, and LOAD_DONE is posted; at a bad entry or a sum past the window, or a line read that
fails, the aperture is FREE with its checkpoints invalid and LOAD_FAILED is posted with the cause. Nothing else changes.
(That a timeout as a command is the expiry whatever ticks are left: log entry 7.) -/
def Obligations.ALoadJobEndsActiveOrFree : Prop :=
  ∀ (t : TagId) (op : Op) (j : Job) (v : Validation) (s : State), LastLine t op j v s → NoTraffic s → j.purpose = .load →
    (s.ap j.aperture).state = .loading →
    let k := j.aperture
    let base (x : TagState) : State := setTag t x { unmoved s with jobs := [], validation := none }
    (∀ lanes w, checkEntries j.list.tag (s.ap k).windowSize (lineEntries op j v lanes) v = .passed w →
      w.nextEntry = j.list.count →
      exec (.responseOk t lanes) s = .next (post
        { kind := .loadDone, aperture := some k, generation := some (s.ap k).generation }
        (setPlaces k w.build (setAp k { s.ap k with
          state := .active, listAddress := j.list.address, entryCount := j.list.count, listTag := j.list.tag
          mappedLength := w.offset, stride := w.stride, resume := none } (base .free))))) ∧
    (∀ lanes f, checkEntries j.list.tag (s.ap k).windowSize (lineEntries op j v lanes) v = .failed f →
      exec (.responseOk t lanes) s = .next (post (loadFailedReport k f) (freed k (base .free)))) ∧
    ∀ i c x, Fails t op i c x s →
      ∃ m, c = MemCause.toCause m ∧ exec i s = .next (post
        (loadFailedReport k { cause := .memoryError, sub := some (.mem m)
                              index := lineFirst j.list.address v.nextProcess, tag := some t }) (freed k (base x)))

/-- What the switch of a REBIND leaves of its aperture, beginning to settle (R16): the new list at the next generation, the
checkpoints of its build buffer, the aperture's cache entries invalid. -/
def Sys2Proof.Claims.switched (j : Job) (w : Validation) (settling : Nat) (s : State) : State :=
  let k := j.aperture
  setAp k { s.ap k with
      state := .rebinding .settling, pendingList := none, settling := settling, listAddress := j.list.address
      entryCount := j.list.count, listTag := j.list.tag, mappedLength := w.offset, stride := w.stride
      resume := none, generation := (s.ap k).generation + 1 }
    { setPlaces k w.build s with
      cache := s.cache.map fun e => if e.aperture = k then { e with valid := false } else e }

/-- The REBIND_FAILED of an aperture (R15, R38, R39). -/
def Sys2Proof.Claims.rebindFailedReport (k : ApId) (g : Gen) (f : JobFailure) : Report :=
  { loadFailedReport k f with kind := .rebindFailed, generation := some g }

/-- An owner fully translated under a generation of an aperture, not marked, every piece of it ISSUED (R11, R17). -/
structure Sys2Proof.Claims.InFlightUnder (k : ApId) (g : Gen) (c : OwnerCore) : Prop where
  place : c.place.map (·.aperture) = some k
  generation : c.generation = some g
  progress : c.progress = none
  pieces : ∀ p ∈ c.pieces, p.state = .issued
  mark : c.settlingMark = false

/-- The end of a REBIND's job (R15 to R17, R37 to R39). When its last entries pass, the switch installs the new list at the
next generation. With no owner and no walk of the aperture nothing settles: it is ACTIVE with REBIND_DONE. With a write and
a read in flight under the old list, both are marked and counted, and it is SETTLING with no report. A write still
translating behind an old walk begins again under the new generation, with a walk request of its own; the old walk stays,
without waiters, marked and counted. At a bad entry, or a line read that fails, the aperture is ACTIVE with its old list, and
REBIND_FAILED is posted. (That a timeout as a command is the expiry whatever ticks are left: log entry 7.) -/
def Obligations.ARebindJobSwitchesOrKeeps : Prop :=
  ∀ (t : TagId) (op : Op) (j : Job) (v : Validation) (s : State), LastLine t op j v s → j.purpose = .rebind →
    (s.ap j.aperture).state = .rebinding .validating →
    let k := j.aperture
    let g := (s.ap k).generation
    let base (x : TagState) : State := setTag t x { unmoved s with jobs := [], validation := none }
    let kept (f : JobFailure) (u : State) : State :=
      post (rebindFailedReport k g f) (setAp k { s.ap k with state := .active, pendingList := none } u)
    (∀ lanes w, checkEntries j.list.tag (s.ap k).windowSize (lineEntries op j v lanes) v = .passed w →
      w.nextEntry = j.list.count →
      (NoTraffic s →
        exec (.responseOk t lanes) s = .next (post
          { kind := .rebindDone, aperture := some k, generation := some (g + 1) }
          (updAp k (fun a => { a with state := .active }) (switched j w 0 (base .free))))) ∧
      (∀ (e : PostEntry) (n : SlotId) (c : Slot), s.postQueue = [e] → s.slot n = some c →
        (∀ m, m ≠ n → s.slot m = none) → s.missQueue = [] → e.state = .issued → InFlightUnder k g e.core →
        c.state = .reading → InFlightUnder k g c.core →
        (∃ p ∈ c.core.pieces, p.kind = .map ∨ p.kind = .rom) →
        exec (.responseOk t lanes) s = .next (switched j w 2
          (setSlot n (some { c with core := { c.core with settlingMark := true } })
            { base .free with postQueue := [{ e with core := { e.core with settlingMark := true } }] }))) ∧
      ∀ (p : PostEntry) (h : Progress) (y : Place) (i : Nat) (x : WalkRequest),
        s.postQueue = [p] → (∀ n, s.slot n = none) → s.missQueue = [x] → x.walk.isSome = true → x.aperture = k →
        x.generation = g → x.waiters = [(p.ref, i)] → Translating p h y → y.aperture = k →
        y.offset + p.core.length ≤ w.offset →
        ∃ u x', exec (.responseOk t lanes) s = .next u ∧
          u.missQueue = [{ x with waiters := [], settlingMark := true }, x'] ∧
          x'.aperture = k ∧ x'.generation = g + 1 ∧ x'.target = y.offset ∧ x'.waiters = [(p.ref, 0)] ∧
          x'.settlingMark = false ∧
          (∀ z, x'.walk = some z → z.listAddress = j.list.address ∧ z.entryCount = j.list.count ∧
            z.listTag = j.list.tag) ∧
          u.postQueue = [{ p with core := { p.core with
            pieces := []
            progress := some { nextPiece := 0, nextOffset := y.offset, endOffset := y.offset + p.core.length
                               generation := g + 1, waiting := .attached } } }] ∧
          { u with tags := s.tags, out := s.out, missQueue := s.missQueue, postQueue := s.postQueue } =
            switched j w 1 { s with jobs := [], validation := none }) ∧
    (NoTraffic s →
      (∀ lanes f, checkEntries j.list.tag (s.ap k).windowSize (lineEntries op j v lanes) v = .failed f →
        exec (.responseOk t lanes) s = .next (kept f (base .free))) ∧
      ∀ i c x, Fails t op i c x s →
        ∃ m, c = MemCause.toCause m ∧ exec i s = .next (kept
          { cause := .memoryError, sub := some (.mem m), index := lineFirst j.list.address v.nextProcess
            tag := some t } (base x)))

/-! ## The management port -/

/-- A command frame of R177: the command, its code, its argument length, whether the quiescing gate holds it (R168), and
whether its first argument names an aperture or a requester. -/
structure Sys2Proof.Claims.FrameRow where
  command : Instr
  code : Byte
  size : Nat
  gated : Bool
  named : Bool

/-- The thirteen commands with some argument bytes (R168, R177). -/
def Sys2Proof.Claims.frameRows (args : List Byte) : List FrameRow :=
  [⟨.ident args, 0x01, 0, false, false⟩, ⟨.getStatus args, 0x02, 1, false, false⟩,
    ⟨.setGlobal args, 0x03, 4, true, false⟩, ⟨.setRequester args, 0x04, 5, true, true⟩,
    ⟨.getRequester args, 0x05, 1, false, true⟩, ⟨.load args, 0x10, 20, true, true⟩,
    ⟨.rebind args, 0x11, 9, true, true⟩, ⟨.retire args, 0x12, 1, true, true⟩,
    ⟨.setAccess args, 0x13, 4, true, true⟩, ⟨.query args, 0x14, 1, false, true⟩,
    ⟨.invalidate args, 0x15, 1, true, false⟩, ⟨.popReport args, 0x20, 0, true, false⟩,
    ⟨.reset args, 0x3C, 0, true, false⟩]

/-- The checks that every frame meets before its command's own (R165, R166, R168, R170 to R172). A wrong CRC or an early
end is answered BAD_FRAME, the latter with the first byte received; an unassigned code with a good CRC UNKNOWN_COMMAND; a
wrong argument length BAD_FRAME; then, while quiescing, a gated command BUSY; then a first argument above 15 that should
name an aperture or a requester BAD_ARGUMENT. Only the pending response changes. A FETCH frame that ends before its third
byte leaves even that, 0xFF driven while its bytes were clocked in; a frame of no whole byte does nothing. -/
def Obligations.FramesAreCheckedInOrder : Prop :=
  ∀ s : State, s.resetLow = false →
    (∀ code args crc, (Instr.badFrame code args crc).wf = true →
      exec (.badFrame code args crc) s = .next (framed code args .badFrame [] s)) ∧
    (∀ code args, (Instr.unknownCommand code args).wf = true →
      exec (.unknownCommand code args) s = .next (framed code args .unknownCommand [] s)) ∧
    (∀ code more, (Instr.incompleteFrame (code :: more)).wf = true → code ≠ 0x00 →
      exec (.incompleteFrame (code :: more)) s = .next { s with
        response := some { answer := .badFrame, command := code }
        out := { mgt := List.replicate (1 + more.length) 0xFF } }) ∧
    (∀ more : List Byte, more.length ≤ 1 → exec (.incompleteFrame (0x00 :: more)) s = .next { s with
      out := { mgt := List.replicate (1 + more.length) 0xFF } }) ∧
    exec (.incompleteFrame []) s = .next (unmoved s) ∧
    ∀ args, ∀ f ∈ frameRows args,
      (args.length ≠ f.size → exec f.command s = .next (framed f.code args .badFrame [] s)) ∧
      (args.length = f.size → f.gated = true → s.quiescing = true →
        exec f.command s = .next (framed f.code args .busy [] s)) ∧
      (args.length = f.size → f.gated = false ∨ s.quiescing = false → f.named = true → 15 < (byteAt args 0).toNat →
        exec f.command s = .next (framed f.code args .badArgument [] s))

/-- The bytes of a response frame (R167, R177). -/
def Sys2Proof.Claims.responseBytes (a : Byte) (command : Byte) (results : List Byte) : List Byte :=
  [a, command, BitVec.ofNat 8 results.length] ++ results ++
    [crc8 ([a, command, BitVec.ofNat 8 results.length] ++ results)]

/-- The remainder of a polynomial over GF(2), its coefficients given highest first, by x^8 + x^2 + x + 1, going on from a
remainder: the long division of R166. -/
def Sys2Proof.Claims.remainder : List Bool → Byte → Byte
  | [], r => r
  | b :: bs, r =>
    let next := (r <<< 1) ||| (if b then 1 else 0)
    remainder bs (if r.msb then next ^^^ 0x07 else next)

/-- The bits of a byte, most significant first. -/
def Sys2Proof.Claims.bitsOf (b : Byte) : List Bool := (List.range 8).map fun i => b.getLsbD (7 - i)

/-- The check byte (R166): the CRC-8 of some bytes is the remainder of their bits, most significant first, followed by eight
zeros, by x^8 + x^2 + x + 1, from 0; that of "123456789" is 0xF4. And FETCH (R165, R167): 0xFF is driven while its own three
bytes are clocked in; then, with a length byte of 0 and a right CRC, the pending response is clocked out with its check byte,
and 0xFF past its end; with none pending, EMPTY with the FETCH code; otherwise 0xFF throughout. The response stays pending, and nothing else changes. -/
def Obligations.FetchClocksOutTheResponse : Prop :=
  (∀ bs : List Byte, crc8 bs = remainder (bs.flatMap bitsOf ++ List.replicate 8 false) 0) ∧
  crc8 [0x31, 0x32, 0x33, 0x34, 0x35, 0x36, 0x37, 0x38, 0x39] = 0xF4 ∧
  ∀ (len crc : Byte) (clocks : Nat) (s : State), s.resetLow = false →
    ∃ bytes : List Byte, exec (.fetch len crc clocks) s = .next { s with
        out := { mgt := [0xFF, 0xFF, 0xFF] ++ bytes } } ∧ bytes.length = clocks ∧
      ∀ i (h : i < bytes.length),
        (len ≠ 0 ∨ crc ≠ crc8 [0x00, 0x00] → bytes[i] = 0xFF) ∧
        (len = 0 → crc = crc8 [0x00, 0x00] →
          (∀ r, s.response = some r →
            bytes[i] = (responseBytes r.answer.code r.command r.results).getD i 0xFF) ∧
          (s.response = none → bytes[i] = (responseBytes 6 0x00 []).getD i 0xFF))

/-- The commands that only read (R1, R128, R161, R169, R172, R177): IDENT and GET_STATUS return the identity and the
counts, QUERY and GET_REQUESTER a record as it stands, also while quiescing; GET_STATUS with clear then makes the dropped
count 0. Nothing else changes. -/
def Obligations.ReadingCommandsReturnRecords : Prop :=
  ∀ (b : Byte) (k : Fin 16) (s : State), s.resetLow = false →
    exec (.ident []) s = .next (framed 0x01 [] .ok [0x16, 1, 16, 32, 16, 8, 16] s) ∧
    (∃ bs : List Byte, bs.length = 9 ∧
      exec (.getStatus [b]) s = .next { framed 0x02 [b] .ok bs s with
        dropped := if b.getLsbD 0 then 0 else s.dropped } ∧
      bs[0]? = some (if s.quiescing then 1 else 0) ∧ bs[1]? = some (BitVec.ofNat 8 s.reports.length) ∧
      bs[2]? = some (BitVec.ofNat 8 s.dropped) ∧ bs[3]? = some (BitVec.ofNat 8 s.postQueue.length) ∧
      bs[4]? = some (BitVec.ofNat 8 ((List.finRange 8).countP fun n => (s.slot n).isSome)) ∧
      bs[5]? = some (BitVec.ofNat 8 ((List.finRange 16).countP fun t => tagClass t == .walk && s.tag t != .free)) ∧
      bs[6]? =
        some (BitVec.ofNat 8 ((List.finRange 16).countP fun t => tagClass t == .validation && s.tag t != .free)) ∧
      bs[7]? = some (BitVec.ofNat 8 ((List.finRange 16).countP fun t => tagClass t == .data && s.tag t != .free)) ∧
      bs[8]? = some (BitVec.ofNat 8 ((List.finRange 16).countP fun t => (s.tag t).isQuarantined))) ∧
    exec (.query [BitVec.ofNat 8 k.val]) s =
      .next (framed 0x14 [BitVec.ofNat 8 k.val] .ok ((s.ap k).encode k) s) ∧
    exec (.getRequester [BitVec.ofNat 8 k.val]) s =
      .next (framed 0x05 [BitVec.ofNat 8 k.val] .ok ((s.req k).encode k) s)

/-- The number of a sub-reason (R178): those of R8 from 1 on, and a memory cause by its own number. -/
def Sys2Proof.Claims.subNumber : SubReason → Nat
  | .bad b => 1 + [BadEntry.notValid, .misaligned, .zeroLength, .badKind, .tagMismatch, .targetOverflow].idxOf b
  | .mem m => 5 + [MemCause.memoryError, .retryExhausted, .responseTimeout].idxOf m

/-- The records of QUERY (47 bytes), GET_REQUESTER (12) and POP_REPORT (21), every byte of them, as R177 and R178 place
their fields, least significant byte first. Numbers, states, phases, modes, kinds, causes and sub-reasons go by their codes;
each flag bit says what is present and the flag bits left over are 0; an absent field is 0. Fields that the model holds as
unbounded numbers are given within their width. -/
def Obligations.RecordsHoldTheirFields : Prop :=
  (∀ (k : ApId) (a : Aperture),
    let bs := a.encode k
    bs.length = 47 ∧ (byteAt bs 0).toNat = k.val ∧
    byteAt bs 1 = (match a.state with
      | .free => 0 | .loading => 1 | .active => 2 | .rebinding _ => 3 | .draining => 4 | .faulted => 5) ∧
    byteAt bs 2 = (match a.state with
      | .rebinding .validating => 1 | .rebinding .settling => 2 | _ => 0) ∧
    (byteAt bs 3).getLsbD 0 = a.resume.isSome ∧ (byteAt bs 3).getLsbD 1 = a.pendingList.isSome ∧
    (byteAt bs 3).toNat < 4 ∧ field bs 4 5 = a.windowBase.toNat ∧
    (a.windowSize < 2 ^ 36 → field bs 9 3 = a.windowSize / 4096) ∧ field bs 12 5 = a.listAddress.toNat ∧
    (a.entryCount < 2 ^ 16 → field bs 17 2 = a.entryCount) ∧ byteAt bs 19 = a.listTag ∧
    (a.mappedLength < 2 ^ 40 → field bs 20 5 = a.mappedLength) ∧
    (byteAt bs 25).getLsbD 0 = a.readAllowed ∧ (byteAt bs 25).getLsbD 1 = a.writeAllowed ∧
    (byteAt bs 25).toNat < 4 ∧ field bs 26 2 = a.mask.toNat ∧ byteAt bs 28 = a.generation ∧
    (∀ h, a.resume = some h → h.index < 2 ^ 16 → h.start < 2 ^ 32 →
      field bs 29 2 = h.index ∧ field bs 31 4 = h.start) ∧
    (a.resume = none → field bs 29 6 = 0) ∧
    (a.stride < 256 → (byteAt bs 35).toNat = a.stride) ∧ (a.inFlight < 256 → (byteAt bs 36).toNat = a.inFlight) ∧
    (a.settling < 256 → (byteAt bs 37).toNat = a.settling) ∧
    (∀ l, a.pendingList = some l → field bs 38 5 = l.address.toNat ∧
      (l.count < 2 ^ 16 → field bs 43 2 = l.count) ∧ byteAt bs 45 = l.tag) ∧
    (a.pendingList = none → field bs 38 8 = 0) ∧
    (a.faultCount < 256 → (byteAt bs 46).toNat = a.faultCount)) ∧
  (∀ (r : ReqId) (q : Requester),
    let bs := q.encode r
    bs.length = 12 ∧ (byteAt bs 0).toNat = r.val ∧
    (byteAt bs 1).getLsbD 0 = q.enabled ∧ (byteAt bs 1).getLsbD 1 = q.confined ∧
    (byteAt bs 1).getLsbD 2 = q.mark.isSome ∧ ((byteAt bs 1).getLsbD 3 = true ↔ ∃ m, q.mark = some (m, true)) ∧
    (byteAt bs 1).getLsbD 4 = q.lossFlag ∧ (byteAt bs 1).toNat < 32 ∧
    (q.postedLimit < 256 → (byteAt bs 2).toNat = q.postedLimit) ∧
    (q.slotLimit < 256 → (byteAt bs 3).toNat = q.slotLimit) ∧
    byteAt bs 4 = (match q.readFailureMode with | .refuse => 0 | .ones => 1) ∧
    (q.refusedCount < 2 ^ 16 → field bs 5 2 = q.refusedCount) ∧ byteAt bs 7 = q.taken ∧ byteAt bs 8 = q.completed ∧
    (∀ m reached, q.mark = some (m, reached) → byteAt bs 9 = m) ∧ (q.mark = none → byteAt bs 9 = 0) ∧
    (q.queuedWrites < 256 → (byteAt bs 10).toNat = q.queuedWrites) ∧
    (q.openSlots < 256 → (byteAt bs 11).toNat = q.openSlots)) ∧
  ∀ p : Report,
    let bs := p.encode
    let present (i : Nat) : Bool := (field bs 3 2).testBit i
    bs.length = 21 ∧
    (byteAt bs 0).toNat = 1 + [ReportKind.writeLost, .readFailed, .readDiscarded, .apertureFaulted, .loadDone,
      .loadFailed, .rebindDone, .rebindFailed, .retireDone, .lateResponse, .resetDone].idxOf p.kind ∧
    (byteAt bs 1).toNat = p.cause.elim 0 (fun c => 1 + [Cause.romWrite, .guardHit, .beyondMap, .withdrawn, .memoryError,
      .retryExhausted, .responseTimeout, .badEntry, .listChanged, .tooLong, .aborted].idxOf c) ∧
    (byteAt bs 2).toNat = p.sub.elim 0 subNumber ∧
    present 0 = p.cause.isSome ∧ present 1 = p.sub.isSome ∧ present 2 = p.requester.isSome ∧
    present 3 = p.aperture.isSome ∧ present 4 = p.generation.isSome ∧ present 5 = p.sequence.isSome ∧
    present 6 = p.address.isSome ∧ present 7 = p.windowOffset.isSome ∧ present 8 = p.extentIndex.isSome ∧
    present 9 = p.tag.isSome ∧ field bs 3 2 < 1024 ∧
    (byteAt bs 5).toNat = p.requester.elim 0 (·.val) ∧ (byteAt bs 6).toNat = p.aperture.elim 0 (·.val) ∧
    byteAt bs 7 = p.generation.getD 0 ∧ byteAt bs 8 = p.sequence.getD 0 ∧
    field bs 9 5 = p.address.elim 0 (·.toNat) ∧
    ((∀ o, p.windowOffset = some o → o < 2 ^ 32) → field bs 14 4 = p.windowOffset.getD 0) ∧
    ((∀ i, p.extentIndex = some i → i < 2 ^ 16) → field bs 18 2 = p.extentIndex.getD 0) ∧
    (byteAt bs 20).toNat = p.tag.elim 0 (·.val)

/-- SET_GLOBAL (R153, R169): a retry budget above 63, a limit or interval of 0, or an attention code above 1 is answered
BAD_ARGUMENT; otherwise OK, and all four values are replaced. Nothing else changes. ATTN_n is low exactly while attention
is enabled, a record is held and RESETn is not low (R162), so it moves in that event. -/
def Obligations.SetGlobalReplacesFourValues : Prop :=
  (∀ (b l d n : Byte) (s : State), s.resetLow = false → s.quiescing = false →
    let bad : Prop := 63 < b.toNat ∨ l = 0 ∨ d = 0 ∨ 1 < n.toNat
    (bad → exec (.setGlobal [b, l, d, n]) s = .next (framed 0x03 [b, l, d, n] .badArgument [] s)) ∧
    (¬bad → exec (.setGlobal [b, l, d, n]) s = .next { framed 0x03 [b, l, d, n] .ok [] s with
      settings := { retryBudget := b.toNat, responseLimit := l.toNat, discardInterval := d.toNat
                    attention := decide (n = 1) } })) ∧
  ∀ s : State, s.attnLow = true ↔ s.settings.attention = true ∧ s.reports ≠ [] ∧ s.resetLow = false

/-- SET_REQUESTER (R129): BUSY while quiescing; then BAD_ARGUMENT for a number above 15, a posted limit outside 1 to 16,
a slot limit outside 1 to 4 or a mode code that is neither REFUSE nor ONES; otherwise OK, the five settings replaced and,
with the option, the refused count 0, the other fields left as they stand. -/
def Obligations.SetRequesterReplacesSettings : Prop :=
  ∀ (n f p l m : Byte) (s : State), s.resetLow = false →
    let args := [n, f, p, l, m]
    let bad : Prop := 15 < n.toNat ∨ p.toNat = 0 ∨ 16 < p.toNat ∨ l.toNat = 0 ∨ 4 < l.toNat ∨ 1 < m.toNat
    (s.quiescing = true → exec (.setRequester args) s = .next (framed 0x04 args .busy [] s)) ∧
    (s.quiescing = false → bad → exec (.setRequester args) s = .next (framed 0x04 args .badArgument [] s)) ∧
    (s.quiescing = false → ¬bad → ∀ r : ReqId, r.val = n.toNat →
      exec (.setRequester args) s = .next (setReq r
        { s.req r with
          enabled := f.getLsbD 0, confined := f.getLsbD 1, postedLimit := p.toNat, slotLimit := l.toNat
          readFailureMode := if m = 0 then .refuse else .ones
          refusedCount := if f.getLsbD 2 then 0 else (s.req r).refusedCount }
        (framed 0x04 args .ok [] s)))

/-- LOAD's checks in their order (R170), and its acceptance (R12, R27): the record takes the window, rights and mask in
LOADING with every other field at its FREE value, and the job joins the tail. -/
def Obligations.LoadIsCheckedInOrder : Prop :=
  ∀ (args : List Byte) (s : State), s.resetLow = false → s.quiescing = false → args.length = 20 →
    let base := field args 1 5
    let pages := field args 6 3
    let list := field args 9 5
    let count := field args 14 2
    let bad : Prop := base % 4096 ≠ 0 ∨ pages = 0 ∨ 1048576 < pages ∨ 2 ^ 40 < base + 4096 * pages ∨
      list % 16 ≠ 0 ∨ count = 0 ∨ 4096 < count ∨ 2 ^ 40 < list + 16 * count
    let shares : Prop := ∃ j, (s.ap j).state ≠ .free ∧ (s.ap j).windowBase.toNat < base + 4096 * pages ∧
      base < (s.ap j).windowBase.toNat + (s.ap j).windowSize
    let answers (a : Answer) : Prop := exec (.load args) s = .next (framed 0x10 args a [] s)
    (15 < (byteAt args 0).toNat → answers .badArgument) ∧
    ∀ k : ApId, k.val = (byteAt args 0).toNat →
      ((s.ap k).state ≠ .free → answers .badState) ∧
      ((s.ap k).state = .free → bad → answers .badArgument) ∧
      ((s.ap k).state = .free → ¬bad → shares → answers .overlap) ∧
      ((s.ap k).state = .free → ¬bad → ¬shares → 4 ≤ s.jobs.length → answers .busy) ∧
      ((s.ap k).state = .free → ¬bad → ¬shares → s.jobs.length < 4 →
        ∃ t, exec (.load args) s = .next t ∧ t.response = some { answer := .ok, command := 0x10 } ∧
          (∀ j, t.ap j = if j = k
            then { state := .loading, windowBase := BitVec.ofNat 40 base, windowSize := 4096 * pages
                   readAllowed := (byteAt args 17).getLsbD 0, writeAllowed := (byteAt args 17).getLsbD 1
                   mask := BitVec.ofNat 16 (field args 18 2) }
            else s.ap j) ∧
          t.jobs.map (fun x => (x.aperture, x.purpose, x.list)) =
            s.jobs.map (fun x => (x.aperture, x.purpose, x.list)) ++
            [(k, .load, { address := BitVec.ofNat 40 list, count := count, tag := byteAt args 16 })] ∧
          t.reports = s.reports ∧ t.cache = s.cache ∧ t.requesters = s.requesters ∧ t.postQueue = s.postQueue ∧
          t.slots = s.slots ∧ t.settings = s.settings ∧ t.missQueue = s.missQueue ∧
          t.checkpoints = s.checkpoints ∧ (∀ u, tagClass u ≠ .validation → t.tag u = s.tag u))

/-- REBIND's checks in their order (R171), and its acceptance (R14, R27): the aperture is REBINDING with phase VALIDATING
and the pending list, its list and every other field kept, and the job joins the tail. -/
def Obligations.RebindIsCheckedInOrder : Prop :=
  ∀ (args : List Byte) (s : State), s.resetLow = false → s.quiescing = false → args.length = 9 →
    let list := field args 1 5
    let count := field args 6 2
    let bad : Prop := list % 16 ≠ 0 ∨ count = 0 ∨ 4096 < count ∨ 2 ^ 40 < list + 16 * count
    let named : ListRef := { address := BitVec.ofNat 40 list, count := count, tag := byteAt args 8 }
    let answers (a : Answer) : Prop := exec (.rebind args) s = .next (framed 0x11 args a [] s)
    (15 < (byteAt args 0).toNat → answers .badArgument) ∧
    ∀ k : ApId, k.val = (byteAt args 0).toNat →
      ((s.ap k).state ≠ .active → answers .badState) ∧
      ((s.ap k).state = .active → bad → answers .badArgument) ∧
      ((s.ap k).state = .active → ¬bad → 4 ≤ s.jobs.length → answers .busy) ∧
      ((s.ap k).state = .active → ¬bad → s.jobs.length < 4 →
        ∃ t, exec (.rebind args) s = .next t ∧ t.response = some { answer := .ok, command := 0x11 } ∧
          (∀ j, t.ap j = if j = k
            then { s.ap k with state := .rebinding .validating, pendingList := some named } else s.ap j) ∧
          t.jobs.map (fun x => (x.aperture, x.purpose, x.list)) =
            s.jobs.map (fun x => (x.aperture, x.purpose, x.list)) ++ [(k, .rebind, named)] ∧
          t.reports = s.reports ∧ t.cache = s.cache ∧ t.checkpoints = s.checkpoints ∧ t.requesters = s.requesters ∧
          t.postQueue = s.postQueue ∧ t.slots = s.slots ∧ t.settings = s.settings ∧ t.missQueue = s.missQueue ∧
          (∀ u, tagClass u ≠ .validation → t.tag u = s.tag u))

/-- RETIRE by the aperture's state (R23, R24, R172), while no job is queued but the aperture's own: FREE and DRAINING are
BAD_STATE; LOADING goes to FREE with LOAD_FAILED (ABORTED) and RETIRE_DONE; ACTIVE and FAULTED go to DRAINING, or straight
to FREE with RETIRE_DONE when nothing is attributed and no walk of it runs. -/
def Obligations.RetireGoesByState : Prop :=
  ∀ (k : ApId) (s : State), s.resetLow = false → s.quiescing = false → (∀ j ∈ s.jobs, j.aperture = k) →
    let args := [BitVec.ofNat 8 k.val]
    let x := s.ap k
    let kept : Aperture := { generation := x.generation, faultCount := x.faultCount }
    let done : Report := { kind := .retireDone, aperture := some k, generation := some x.generation }
    let busy : Prop := 0 < x.inFlight ∨ ∃ w ∈ s.missQueue, w.walk.isSome = true ∧ w.aperture = k
    (x.state = .free ∨ x.state = .draining →
      exec (.retire args) s = .next (framed 0x12 args .badState [] s)) ∧
    (x.state = .loading →
      ∃ t, exec (.retire args) s = .next t ∧ t.response = some { answer := .ok, command := 0x12 } ∧
        t.jobs = [] ∧ (∀ j, t.ap j = if j = k then kept else s.ap j) ∧ (∀ i : Fin 32, (t.places k)[i] = none) ∧
        t.requesters = s.requesters ∧ t.cache = s.cache ∧ t.postQueue = s.postQueue ∧ t.slots = s.slots ∧
        t.missQueue = s.missQueue ∧ t.settings = s.settings ∧ t.quiescing = false ∧
        (s.reports.length < 15 → t.reports =
          s.reports ++ [{ kind := .loadFailed, cause := some .aborted, aperture := some k }, done])) ∧
    (x.state = .active ∨ x.state = .faulted → s.jobs = [] →
      (busy → exec (.retire args) s = .next (setAp k
        { x with state := .draining, pendingList := none, settling := 0 } (framed 0x12 args .ok [] s))) ∧
      (¬busy → exec (.retire args) s = .next (post done (setPlaces k (Vector.replicate 32 none) (setAp k kept
        { framed 0x12 args .ok [] s with
          cache := s.cache.map fun e => if e.aperture = k then { e with valid := false } else e })))))

/-- RETIRE of a REBINDING aperture (R24): from VALIDATING its job is cancelled with REBIND_FAILED (ABORTED); from SETTLING
the settling is abandoned without REBIND_DONE; either way, traffic still attributed, it is DRAINING with its current list
and generation. -/
def Obligations.RetireAbandonsARebind : Prop :=
  ∀ (k : ApId) (s : State), s.resetLow = false → s.quiescing = false → 0 < (s.ap k).inFlight →
    (∀ j ∈ s.jobs, j.aperture = k) →
    let args := [BitVec.ofNat 8 k.val]
    let draining (t : State) : Prop :=
      t.response = some { answer := .ok, command := 0x12 } ∧ t.jobs = [] ∧ t.requesters = s.requesters ∧
      t.cache = s.cache ∧ t.checkpoints = s.checkpoints ∧ t.settings = s.settings ∧ t.quiescing = false ∧
      ∀ j, t.ap j = if j = k then { s.ap k with state := .draining, pendingList := none, settling := 0 } else s.ap j
    ((s.ap k).state = .rebinding .validating →
      ∃ t, exec (.retire args) s = .next t ∧ draining t ∧
        (s.reports.length < 16 → t.reports = s.reports ++
          [{ kind := .rebindFailed, cause := some .aborted, aperture := some k
             generation := some (s.ap k).generation }])) ∧
    ((s.ap k).state = .rebinding .settling → s.jobs = [] →
      ∃ t, exec (.retire args) s = .next t ∧ draining t ∧ t.reports = s.reports ∧ t.dropped = s.dropped ∧
        (∀ e ∈ t.postQueue, ∀ x, e.core.place = some x → x.aperture = k → e.core.settlingMark = false) ∧
        (∀ n c, t.slot n = some c → ∀ x, c.core.place = some x → x.aperture = k → c.core.settlingMark = false) ∧
        ∀ w ∈ t.missQueue, w.aperture = k → w.settlingMark = false)

/-- SET_ACCESS (R18, R172) replaces rights and mask of an ACTIVE or REBINDING aperture and is BAD_STATE in every other
state; INVALIDATE (R53, R172) makes the cache entries of one aperture, or with 0xFF of all, invalid and their resume
points absent, in every state, and answers 16 to 254 BAD_ARGUMENT. Nothing else changes. -/
def Obligations.SetAccessAndInvalidate : Prop :=
  ∀ (k : ApId) (s : State), s.resetLow = false → s.quiescing = false →
    let n : Byte := BitVec.ofNat 8 k.val
    (∀ rights low high : Byte,
      let args := [n, rights, low, high]
      ((s.ap k).state = .active ∨ (∃ p, (s.ap k).state = .rebinding p) →
        exec (.setAccess args) s = .next (setAp k
          { s.ap k with
            readAllowed := rights.getLsbD 0, writeAllowed := rights.getLsbD 1
            mask := BitVec.ofNat 16 (low.toNat + 256 * high.toNat) } (framed 0x13 args .ok [] s))) ∧
      ((s.ap k).state ≠ .active → (∀ p, (s.ap k).state ≠ .rebinding p) →
        exec (.setAccess args) s = .next (framed 0x13 args .badState [] s))) ∧
    exec (.invalidate [n]) s = .next (setAp k { s.ap k with resume := none }
      { framed 0x15 [n] .ok [] s with
        cache := s.cache.map fun e => if e.aperture = k then { e with valid := false } else e }) ∧
    exec (.invalidate [0xFF]) s = .next { framed 0x15 [0xFF] .ok [] s with
      cache := s.cache.map fun e => { e with valid := false }
      apertures := s.apertures.map fun a => { a with resume := none } } ∧
    ∀ b : Byte, 16 ≤ b.toNat → b.toNat ≤ 254 →
      exec (.invalidate [b]) s = .next (framed 0x15 [b] .badArgument [] s)

/-- POP_REPORT (R160): the record at the head leaves the queue in that event and becomes the pending response, the one
place it is then held; an empty queue is answered EMPTY. The dropped count stands. While quiescing it is answered BUSY, and with
argument bytes or a wrong CRC BAD_FRAME, and nothing is removed. A pop and a post: from a full queue, the post first is dropped
and the pop leaves 15, the pop first lets the post be stored; with an empty queue the pop first is answered EMPTY and the post
is stored, the post first is what the pop returns; in any other case the order makes no difference. -/
def Obligations.PopReportRemovesTheHead : Prop :=
  ∀ s : State, s.resetLow = false →
    (s.quiescing = false →
      (∀ p rest, s.reports = p :: rest →
        exec (.popReport []) s = .next { framed 0x20 [] .ok p.encode s with reports := rest }) ∧
      (s.reports = [] → exec (.popReport []) s = .next (framed 0x20 [] .empty [] s)) ∧
      ∀ q : Report,
        let popped (p : Report) (rest : List Report) : State := { framed 0x20 [] .ok p.encode s with reports := rest }
        (∀ p rest, s.reports = p :: rest → rest.length = 15 →
          exec (.popReport []) (post q s) = .next { popped p rest with dropped := min 255 (s.dropped + 1) } ∧
          post q (popped p rest) = popped p (rest ++ [q])) ∧
        (s.reports = [] →
          exec (.popReport []) (post q s) = .next (popped q []) ∧
          post q (framed 0x20 [] .empty [] s) = { framed 0x20 [] .empty [] s with reports := [q] }) ∧
        ∀ p rest, s.reports = p :: rest → rest.length < 15 →
          exec (.popReport []) (post q s) = .next (popped p (rest ++ [q])) ∧
          post q (popped p rest) = popped p (rest ++ [q])) ∧
    (s.quiescing = true → exec (.popReport []) s = .next (framed 0x20 [] .busy [] s)) ∧
    (∀ args : List Byte, args ≠ [] → exec (.popReport args) s = .next (framed 0x20 args .badFrame [] s)) ∧
    ∀ args crc, (Instr.badFrame 0x20 args crc).wf = true →
      exec (.badFrame 0x20 args crc) s = .next (framed 0x20 args .badFrame [] s)

/-- RESET (R25, R45, R125, R173, R174): every job is cancelled and every slot freed without report, a VALIDATING aperture
is ACTIVE again, and the bridge is quiescing while a write is still to be answered by memory. With the post queue empty and
no tag OUTSTANDING, the whole soft reset is carried out in the event, and RESET_DONE is the only record. -/
def Obligations.ResetQuiescesOrCompletes : Prop :=
  ∀ s : State, s.resetLow = false → s.quiescing = false →
    (∀ e, s.postQueue = [e] → s.missQueue = [] → s.unqueued = [] →
      (∀ n c, s.slot n = some c → c.core.place = none) → s.parked = [] →
      e.state = .issued → (∀ p ∈ e.core.pieces, p.state = .issued) →
      ∃ t, exec (.reset []) s = .next t ∧ t.quiescing = true ∧ t.jobs = [] ∧ t.validation = none ∧
        t.response = some { answer := .ok, command := 0x3C } ∧ t.postQueue = [e] ∧ t.reports = s.reports ∧
        t.settings = s.settings ∧ (∀ n, t.slot n = none) ∧
        (∀ r, (t.req r).queuedWrites = (s.req r).queuedWrites ∧ (t.req r).taken = (s.req r).taken) ∧
        ∀ k, t.ap k = if (s.ap k).state = .rebinding .validating
          then { s.ap k with state := .active, pendingList := none } else s.ap k) ∧
    (s.postQueue = [] → s.missQueue = [] → s.unqueued = [] → (∀ t op, s.tag t ≠ .outstanding op) →
      exec (.reset []) s = .next { State.reset with
        reports := [{ kind := .resetDone }]
        response := some { answer := .ok, command := 0x3C }
        out := { mgt := List.replicate 3 0xFF }
        pending := s.pending, tickCounter := s.tickCounter, nextAge := s.nextAge, choices := s.choices })

/-! ## The steps inside events -/

/-- DRAIN_COMPLETE (R23) and SETTLING_END (R17): a DRAINING aperture with nothing attributed and no walk running is FREE
with its generation and fault count kept, its cache entries and checkpoints invalid, and RETIRE_DONE posted; a SETTLING
aperture with settling count 0 is ACTIVE and REBIND_DONE is posted. Where the condition does not stand nothing happens (as
commands: the model's choice, log entry 1). -/
def Obligations.DrainingAndSettlingEnd : Prop :=
  ∀ (k : ApId) (s : State),
    let x := s.ap k
    let drained : Prop := x.state = .draining ∧ x.inFlight = 0 ∧ ∀ w ∈ s.missQueue, w.walk.isSome = true → w.aperture ≠ k
    let settled : Prop := x.state = .rebinding .settling ∧ x.settling = 0
    (drained → exec (.drainComplete k) s = .next (post
      { kind := .retireDone, aperture := some k, generation := some x.generation }
      (setPlaces k (Vector.replicate 32 none) (setAp k { generation := x.generation, faultCount := x.faultCount }
        { unmoved s with
          cache := s.cache.map fun e => if e.aperture = k then { e with valid := false } else e })))) ∧
    (¬drained → exec (.drainComplete k) s = .next (unmoved s)) ∧
    (settled → exec (.settlingEnd k) s = .next (post
      { kind := .rebindDone, aperture := some k, generation := some x.generation }
      (setAp k { x with state := .active } (unmoved s)))) ∧
    (¬settled → exec (.settlingEnd k) s = .next (unmoved s))

/-- ENTRY_LEAVE and ENTRY_ELIGIBLE on the only entry (R95, R96, R99, R100): a DONE head leaves, and so does a READY head
whose pieces are all ZERO, with no memory operation; a READY head with a MAP piece has it issued under the lowest FREE data
tag. A leaving brings those behind it in the same event: a READY entry of ZERO pieces that becomes the head leaves too,
and so does a FAILED one with nothing ISSUED, lost. A requester whose head may not leave has none leave, and one whose head
is not READY has none become eligible (as commands: the model's choice, log entry 1). -/
def Obligations.HeadsBecomeEligibleAndLeave : Prop :=
  (∀ (e : PostEntry) (s : State), s.quiescing = false → s.postQueue = [e] → Plain e.core s →
    (∀ n, s.slot n = none) → s.missQueue = [] → s.jobs = [] → s.parked = [] →
    (e.state = .done → exec (.entryLeave e.core.requester) s = .next (left e (unmoved s))) ∧
    (e.state = .ready → (∀ p ∈ e.core.pieces, p.kind = .zero ∧ p.state = .pending) →
      exec (.entryEligible e.core.requester) s = .next (left e (unmoved s))) ∧
    (∀ p t a, e.state = .ready → e.core.pieces = [p] → p.kind = .map → p.state = .pending → p.target = some a →
      Lowest .data t s →
      ∃ u op, exec (.entryEligible e.core.requester) s = .next u ∧ u.tag t = .outstanding op ∧
        op.kind = .mwrite ∧ op.address = a ∧ op.length = p.length ∧ op.timer = s.settings.responseLimit ∧
        u.postQueue = [{ e with
          state := .issued, core := { e.core with pieces := [{ p with state := .issued }] } }] ∧
        u.reports = s.reports ∧ u.requesters = s.requesters ∧ u.apertures = s.apertures ∧ Untouched s u ∧
        u.cache = s.cache ∧ u.slots = s.slots ∧ ∀ v, v ≠ t → u.tag v = s.tag v)) ∧
  (∀ (d e : PostEntry) (s : State), s.quiescing = false → s.postQueue = [d, e] → Plain d.core s → Plain e.core s →
    e.core.requester = d.core.requester → e.sequence ≠ d.sequence → (∀ n, s.slot n = none) → s.missQueue = [] →
    s.jobs = [] → s.parked = [] → d.state = .done →
    (e.state = .ready → (∀ p ∈ e.core.pieces, p.kind = .zero ∧ p.state = .pending) →
      exec (.entryLeave d.core.requester) s = .next (left e (left d (unmoved s)))) ∧
    (∀ f, e.state = .failed → e.core.failure = some f → (∀ p ∈ e.core.pieces, p.state ≠ .issued) →
      exec (.entryLeave d.core.requester) s = .next (lost e f (left d (unmoved s))))) ∧
  ∀ (r : ReqId) (s : State),
    ((∀ e, head r s = some e → e.state ≠ .done ∧ (e.state = .failed → ∃ p ∈ e.core.pieces, p.state = .issued)) →
      exec (.entryLeave r) s = .next (unmoved s)) ∧
    ((∀ e, head r s = some e → e.state ≠ .ready) → exec (.entryEligible r) s = .next (unmoved s))

/-- FENCE_MET (R112, R115, R116): an ORDERED slot whose fence its requester's completed sequence has come to goes to
READING, or, all its pieces ZERO, on to READY with zeros; a slot whose fence is met already, or not yet, is left (as a
command: the model's choice, log entry 1). -/
def Obligations.AMetFenceStartsTheRead : Prop :=
  ∀ (n : SlotId) (c : Slot) (s : State), s.slot n = some c →
    (c.fenceMet = true ∨ (s.req c.core.requester).completed ≠ c.fence →
      exec (.fenceMet n) s = .next (unmoved s)) ∧
    (∀ p, c.fenceMet = false → (s.req c.core.requester).completed = c.fence → c.state = .ordered →
      s.quiescing = false → s.postQueue = [] → (∀ m, m ≠ n → s.slot m = none) → s.missQueue = [] → s.jobs = [] →
      s.parked = [] → c.core.pieces = [p] → p.state = .pending →
      (p.kind = .zero → exec (.fenceMet n) s = .next (setSlot n (some { c with
        fenceMet := true, state := .ready, data := List.replicate p.length 0
        timer := some s.settings.discardInterval
        core := { c.core with pieces := [{ p with state := .read (List.replicate p.length 0) }] } }) (unmoved s))) ∧
      (∀ t a, p.kind = .map → p.target = some a → Lowest .data t s →
        ∃ u op, exec (.fenceMet n) s = .next u ∧ u.tag t = .outstanding op ∧ op.kind = .mread ∧ op.address = a ∧
          op.length = p.length ∧ u.slot n = some { c with
            fenceMet := true, state := .reading
            core := { c.core with pieces := [{ p with state := .issued }] } } ∧
          u.reports = s.reports ∧ u.requesters = s.requesters ∧ u.apertures = s.apertures ∧ Untouched s u ∧
          u.cache = s.cache ∧ u.postQueue = [] ∧ ∀ v, v ≠ t → u.tag v = s.tag v))

/-! ## Rules of the whole machine -/

/-- What every event but a command frame and a reset leaves alone, while the bridge is not quiescing: the settings, the
pending response, and every requester's five settings; and the taken sequence of every requester, but for a WRITE
(R75, R91, R129, R153, R167). -/
def Obligations.TrafficLeavesTheSettings : Prop :=
  ∀ (i : Instr) (s : State), s.resetLow = false → s.quiescing = false →
    (∃ r a len lanes en, i = .write r a len lanes en) ∨ (∃ r a len, i = .read r a len) ∨ (∃ r, i = .sync r) ∨
    (∃ r, i = .unassignedKind r) ∨ (∃ t lanes code, i ∈ responses t lanes code) ∨ (∃ t, i = .responseTimeout t) ∨
    (∃ n, i = .discardExpiry n) ∨ (∃ o, i = .backoffEnd o) ∨ i = .tick ∨ i = .softResetComplete ∨
    (∃ k, i = .drainComplete k ∨ i = .settlingEnd k) ∨ (∃ r, i = .entryLeave r ∨ i = .entryEligible r) ∨
    (∃ n, i = .fenceMet n) ∨ i = .arbiterGrant ∨ i = .walkStart ∨ i = .jobStart ∨ i = .validationReadIssue ∨
    i = .unqueuedReoffer →
    ∃ t, exec i s = .next t ∧ t.settings = s.settings ∧ t.response = s.response ∧ t.quiescing = false ∧
      t.resetLow = false ∧
      ∀ r, (t.req r).enabled = (s.req r).enabled ∧ (t.req r).confined = (s.req r).confined ∧
        (t.req r).postedLimit = (s.req r).postedLimit ∧ (t.req r).slotLimit = (s.req r).slotLimit ∧
        (t.req r).readFailureMode = (s.req r).readFailureMode ∧
        ((∀ a len lanes en, i ≠ .write r a len lanes en) → (t.req r).taken = (s.req r).taken)

/-- From every state with this invariant, a step leads to one with it: the ranks of the extent cache are the numbers 0 to
31, one each (R49). -/
def Obligations.StepKeepsCacheRanks : Prop :=
  ∀ s t : State, ranksArePermutation s → step s = .next t → ranksArePermutation t

/-- From every state with this invariant, a step leads to one with it: no two claimed windows share an address (R2), and a
pending list is present exactly in REBINDING with phase VALIDATING (R1, R14 to R16). -/
def Obligations.StepKeepsTheApertureLaws : Prop :=
  ∀ s t : State, windowsDisjoint s ∧ pendingListsPlaced s → step s = .next t → windowsDisjoint t ∧ pendingListsPlaced t

/-- From every state with this invariant, a step leads to one with it: the report, post, validation and miss queues are
within their capacities, and settings, limits and saturating counts in their ranges (R6, R27, R59, R86, R89, R129, R153,
R156, R159). -/
def Obligations.StepKeepsCapacitiesAndRanges : Prop :=
  ∀ s t : State, queuesBounded s ∧ settingsInRange s → step s = .next t → queuesBounded t ∧ settingsInRange t

/-- From every state with this invariant, a step leads to one with it: every operation under a tag is of the tag's class,
and every operation is of its owner's class (R139, R141, R142). -/
def Obligations.StepKeepsOperationsInClass : Prop :=
  ∀ s t : State, opsInClass s → step s = .next t → opsInClass t

/-- From every state with this invariant, a step leads to one with it: the counts agree with what they count (R5, R12,
R91, R109, R131): each requester's entries carry the consecutive sequence numbers after its completed sequence up to
its taken sequence, its open slot count is the number of its slots, no two slots carry one match key, and each
aperture's in-flight count is the number of its entries and slots, none while FREE or LOADING. -/
def Obligations.StepKeepsCountsTrue : Prop :=
  ∀ s t : State, sequencesFollow s ∧ slotsCounted s ∧ inFlightCounted s → step s = .next t →
    sequencesFollow t ∧ slotsCounted t ∧ inFlightCounted t

/-- The reset state meets each invariant that the five statements above say a step keeps: ranks, windows, pending lists,
capacities, ranges, classes and counts. -/
def Obligations.ResetMeetsTheInvariants : Prop :=
  let s := State.reset
  ranksArePermutation s ∧ windowsDisjoint s ∧ queuesBounded s ∧ settingsInRange s ∧ opsInClass s ∧
  sequencesFollow s ∧ slotsCounted s ∧ inFlightCounted s ∧ pendingListsPlaced s
end

