-- ==== Sys2Proof/Laws/State.lean ====
section
/-! SUPPORT. The small lemmas of the record updates: for each named operation that writes one part of the state, what
every other field of the state is after it, and what the written record reads as. -/

namespace Sys2Proof.Machine

/-! ### Reading what was written -/

@[simp] theorem setAp_ap_self (k : ApId) (a : Aperture) (s : State) : (setAp k a s).ap k = a := by
  simp [setAp, State.ap]

theorem setAp_ap_of_ne {k j : ApId} (h : j ≠ k) (a : Aperture) (s : State) : (setAp k a s).ap j = s.ap j := by
  have : k.val ≠ j.val := fun e => h (Fin.ext e.symm)
  simp [setAp, State.ap, this]

@[simp] theorem setAp_ap (k j : ApId) (a : Aperture) (s : State) :
    (setAp k a s).ap j = if j = k then a else s.ap j := by
  by_cases h : j = k
  · subst h; simp
  · simp [setAp_ap_of_ne h, h]

@[simp] theorem updAp_ap (k j : ApId) (f : Aperture → Aperture) (s : State) :
    (updAp k f s).ap j = if j = k then f (s.ap k) else s.ap j := by simp [updAp]

@[simp] theorem setPlaces_places (k j : ApId) (p : Checkpoints) (s : State) :
    (setPlaces k p s).places j = if j = k then p else s.places j := by
  by_cases h : j = k
  · subst h; simp [setPlaces, State.places]
  · have : k.val ≠ j.val := fun e => h (Fin.ext e.symm)
    simp [setPlaces, State.places, this, h]

@[simp] theorem setReq_req (r j : ReqId) (q : Requester) (s : State) :
    (setReq r q s).req j = if j = r then q else s.req j := by
  by_cases h : j = r
  · subst h; simp [setReq, State.req]
  · have : r.val ≠ j.val := fun e => h (Fin.ext e.symm)
    simp [setReq, State.req, this, h]

@[simp] theorem updReq_req (r j : ReqId) (f : Requester → Requester) (s : State) :
    (updReq r f s).req j = if j = r then f (s.req r) else s.req j := by simp [updReq]

@[simp] theorem setSlot_slot (n m : SlotId) (x : Option Slot) (s : State) :
    (setSlot n x s).slot m = if m = n then x else s.slot m := by
  by_cases h : m = n
  · subst h; simp [setSlot, State.slot]
  · have : n.val ≠ m.val := fun e => h (Fin.ext e.symm)
    simp [setSlot, State.slot, this, h]

@[simp] theorem updSlot_slot (n m : SlotId) (f : Slot → Slot) (s : State) :
    (updSlot n f s).slot m = if m = n then (s.slot n).map f else s.slot m := by simp [updSlot]

@[simp] theorem setTag_tag (t u : TagId) (x : TagState) (s : State) :
    (setTag t x s).tag u = if u = t then x else s.tag u := by
  by_cases h : u = t
  · subst h; simp [setTag, State.tag]
  · have : t.val ≠ u.val := fun e => h (Fin.ext e.symm)
    simp [setTag, State.tag, this, h]

@[simp] theorem issue_tag (t u : TagId) (op : Op) (s : State) :
    (issue t op s).tag u =
      if u = t then .outstanding { op with timer := s.settings.responseLimit } else s.tag u :=
  setTag_tag t u _ s

@[simp] theorem setCached_cached (i j : Fin 32) (e : CacheEntry) (s : State) :
    (setCached i e s).cached j = if j = i then e else s.cached j := by
  by_cases h : j = i
  · subst h; simp [setCached, State.cached]
  · have : i.val ≠ j.val := fun e => h (Fin.ext e.symm)
    simp [setCached, State.cached, this, h]

@[simp] theorem touch_cached (i j : Fin 32) (s : State) :
    (touch i s).cached j =
      if j = i then { s.cached j with rank := 0 }
      else if (s.cached j).rank < (s.cached i).rank then { s.cached j with rank := (s.cached j).rank + 1 }
      else s.cached j := by
  simp only [touch, touchCache, State.cached, Vector.getElem_ofFn]
  rfl

@[simp] theorem invalidateWhere_cached (p : CacheEntry → Bool) (j : Fin 32) (s : State) :
    (invalidateWhere p s).cached j =
      if p (s.cached j) then { s.cached j with valid := false } else s.cached j := by
  simp only [invalidateWhere, State.cached, Vector.getElem_map]
  rfl

@[simp] theorem cancelOps_tag (p : OpName → Bool) (g : Bool) (t : TagId) (s : State) :
    (cancelOps p g s).tag t = (s.tag t).cancel p g := by
  simp [cancelOps, State.tag]

/-- The records read through the accessors after an update of another field. -/
theorem ap_congr {s t : State} (h : t.apertures = s.apertures) (k : ApId) : t.ap k = s.ap k := by simp [State.ap, h]

theorem places_congr {s t : State} (h : t.checkpoints = s.checkpoints) (k : ApId) : t.places k = s.places k := by
  simp [State.places, h]

theorem req_congr {s t : State} (h : t.requesters = s.requesters) (r : ReqId) : t.req r = s.req r := by
  simp [State.req, h]

theorem slot_congr {s t : State} (h : t.slots = s.slots) (n : SlotId) : t.slot n = s.slot n := by
  simp [State.slot, h]

theorem tag_congr {s t : State} (h : t.tags = s.tags) (u : TagId) : t.tag u = s.tag u := by simp [State.tag, h]

theorem cached_congr {s t : State} (h : t.cache = s.cache) (i : Fin 32) : t.cached i = s.cached i := by
  simp [State.cached, h]

@[simp] theorem setPostQueue_postQueue (q : List PostEntry) (s : State) : (setPostQueue q s).postQueue = q := rfl

@[simp] theorem updEntry_postQueue (r : ReqId) (q : Seq) (f : PostEntry → PostEntry) (s : State) :
    (updEntry r q f s).postQueue = s.postQueue.map fun e => if e.named r q then f e else e := rfl

@[simp] theorem joinJob_jobs (k : ApId) (p : Purpose) (l : ListRef) (s : State) :
    (joinJob k p l s).jobs = s.jobs ++ [{ aperture := k, purpose := p, list := l, running := false }] := rfl

@[simp] theorem answer_response (v : Byte) (a : Answer) (bs : List Byte) (s : State) :
    (answer v a bs s).response = some { answer := a, command := v, results := bs } := rfl

@[simp] theorem answerOk_response (v : Byte) (s : State) :
    (answerOk v s).response = some { answer := .ok, command := v } := rfl

@[simp] theorem beginEvent_out (s : State) : (beginEvent s).out = {} := rfl

@[simp] theorem respond_out (b : BusResponse) (s : State) : (respond b s).out = { s.out with bus := some b } := rfl

/-! ### setAp -/

@[simp] theorem setAp_pending (k : ApId) (a : Aperture) (s : State) : (setAp k a s).pending = s.pending := rfl
@[simp] theorem setAp_resetLow (k : ApId) (a : Aperture) (s : State) : (setAp k a s).resetLow = s.resetLow := rfl
@[simp] theorem setAp_tickCounter (k : ApId) (a : Aperture) (s : State) : (setAp k a s).tickCounter = s.tickCounter := rfl
@[simp] theorem setAp_checkpoints (k : ApId) (a : Aperture) (s : State) : (setAp k a s).checkpoints = s.checkpoints := rfl
@[simp] theorem setAp_jobs (k : ApId) (a : Aperture) (s : State) : (setAp k a s).jobs = s.jobs := rfl
@[simp] theorem setAp_validation (k : ApId) (a : Aperture) (s : State) : (setAp k a s).validation = s.validation := rfl
@[simp] theorem setAp_cache (k : ApId) (a : Aperture) (s : State) : (setAp k a s).cache = s.cache := rfl
@[simp] theorem setAp_missQueue (k : ApId) (a : Aperture) (s : State) : (setAp k a s).missQueue = s.missQueue := rfl
@[simp] theorem setAp_unqueued (k : ApId) (a : Aperture) (s : State) : (setAp k a s).unqueued = s.unqueued := rfl
@[simp] theorem setAp_postQueue (k : ApId) (a : Aperture) (s : State) : (setAp k a s).postQueue = s.postQueue := rfl
@[simp] theorem setAp_slots (k : ApId) (a : Aperture) (s : State) : (setAp k a s).slots = s.slots := rfl
@[simp] theorem setAp_requesters (k : ApId) (a : Aperture) (s : State) : (setAp k a s).requesters = s.requesters := rfl
@[simp] theorem setAp_tags (k : ApId) (a : Aperture) (s : State) : (setAp k a s).tags = s.tags := rfl
@[simp] theorem setAp_parked (k : ApId) (a : Aperture) (s : State) : (setAp k a s).parked = s.parked := rfl
@[simp] theorem setAp_lastGrant (k : ApId) (a : Aperture) (s : State) : (setAp k a s).lastGrant = s.lastGrant := rfl
@[simp] theorem setAp_settings (k : ApId) (a : Aperture) (s : State) : (setAp k a s).settings = s.settings := rfl
@[simp] theorem setAp_reports (k : ApId) (a : Aperture) (s : State) : (setAp k a s).reports = s.reports := rfl
@[simp] theorem setAp_dropped (k : ApId) (a : Aperture) (s : State) : (setAp k a s).dropped = s.dropped := rfl
@[simp] theorem setAp_quiescing (k : ApId) (a : Aperture) (s : State) : (setAp k a s).quiescing = s.quiescing := rfl
@[simp] theorem setAp_response (k : ApId) (a : Aperture) (s : State) : (setAp k a s).response = s.response := rfl
@[simp] theorem setAp_out (k : ApId) (a : Aperture) (s : State) : (setAp k a s).out = s.out := rfl
@[simp] theorem setAp_nextAge (k : ApId) (a : Aperture) (s : State) : (setAp k a s).nextAge = s.nextAge := rfl
@[simp] theorem setAp_choices (k : ApId) (a : Aperture) (s : State) : (setAp k a s).choices = s.choices := rfl

/-! ### updAp -/

@[simp] theorem updAp_pending (k : ApId) (f : Aperture → Aperture) (s : State) : (updAp k f s).pending = s.pending := rfl
@[simp] theorem updAp_resetLow (k : ApId) (f : Aperture → Aperture) (s : State) : (updAp k f s).resetLow = s.resetLow := rfl
@[simp] theorem updAp_tickCounter (k : ApId) (f : Aperture → Aperture) (s : State) : (updAp k f s).tickCounter = s.tickCounter := rfl
@[simp] theorem updAp_checkpoints (k : ApId) (f : Aperture → Aperture) (s : State) : (updAp k f s).checkpoints = s.checkpoints := rfl
@[simp] theorem updAp_jobs (k : ApId) (f : Aperture → Aperture) (s : State) : (updAp k f s).jobs = s.jobs := rfl
@[simp] theorem updAp_validation (k : ApId) (f : Aperture → Aperture) (s : State) : (updAp k f s).validation = s.validation := rfl
@[simp] theorem updAp_cache (k : ApId) (f : Aperture → Aperture) (s : State) : (updAp k f s).cache = s.cache := rfl
@[simp] theorem updAp_missQueue (k : ApId) (f : Aperture → Aperture) (s : State) : (updAp k f s).missQueue = s.missQueue := rfl
@[simp] theorem updAp_unqueued (k : ApId) (f : Aperture → Aperture) (s : State) : (updAp k f s).unqueued = s.unqueued := rfl
@[simp] theorem updAp_postQueue (k : ApId) (f : Aperture → Aperture) (s : State) : (updAp k f s).postQueue = s.postQueue := rfl
@[simp] theorem updAp_slots (k : ApId) (f : Aperture → Aperture) (s : State) : (updAp k f s).slots = s.slots := rfl
@[simp] theorem updAp_requesters (k : ApId) (f : Aperture → Aperture) (s : State) : (updAp k f s).requesters = s.requesters := rfl
@[simp] theorem updAp_tags (k : ApId) (f : Aperture → Aperture) (s : State) : (updAp k f s).tags = s.tags := rfl
@[simp] theorem updAp_parked (k : ApId) (f : Aperture → Aperture) (s : State) : (updAp k f s).parked = s.parked := rfl
@[simp] theorem updAp_lastGrant (k : ApId) (f : Aperture → Aperture) (s : State) : (updAp k f s).lastGrant = s.lastGrant := rfl
@[simp] theorem updAp_settings (k : ApId) (f : Aperture → Aperture) (s : State) : (updAp k f s).settings = s.settings := rfl
@[simp] theorem updAp_reports (k : ApId) (f : Aperture → Aperture) (s : State) : (updAp k f s).reports = s.reports := rfl
@[simp] theorem updAp_dropped (k : ApId) (f : Aperture → Aperture) (s : State) : (updAp k f s).dropped = s.dropped := rfl
@[simp] theorem updAp_quiescing (k : ApId) (f : Aperture → Aperture) (s : State) : (updAp k f s).quiescing = s.quiescing := rfl
@[simp] theorem updAp_response (k : ApId) (f : Aperture → Aperture) (s : State) : (updAp k f s).response = s.response := rfl
@[simp] theorem updAp_out (k : ApId) (f : Aperture → Aperture) (s : State) : (updAp k f s).out = s.out := rfl
@[simp] theorem updAp_nextAge (k : ApId) (f : Aperture → Aperture) (s : State) : (updAp k f s).nextAge = s.nextAge := rfl
@[simp] theorem updAp_choices (k : ApId) (f : Aperture → Aperture) (s : State) : (updAp k f s).choices = s.choices := rfl

/-! ### setPlaces -/

@[simp] theorem setPlaces_pending (k : ApId) (p : Checkpoints) (s : State) : (setPlaces k p s).pending = s.pending := rfl
@[simp] theorem setPlaces_resetLow (k : ApId) (p : Checkpoints) (s : State) : (setPlaces k p s).resetLow = s.resetLow := rfl
@[simp] theorem setPlaces_tickCounter (k : ApId) (p : Checkpoints) (s : State) : (setPlaces k p s).tickCounter = s.tickCounter := rfl
@[simp] theorem setPlaces_apertures (k : ApId) (p : Checkpoints) (s : State) : (setPlaces k p s).apertures = s.apertures := rfl
@[simp] theorem setPlaces_jobs (k : ApId) (p : Checkpoints) (s : State) : (setPlaces k p s).jobs = s.jobs := rfl
@[simp] theorem setPlaces_validation (k : ApId) (p : Checkpoints) (s : State) : (setPlaces k p s).validation = s.validation := rfl
@[simp] theorem setPlaces_cache (k : ApId) (p : Checkpoints) (s : State) : (setPlaces k p s).cache = s.cache := rfl
@[simp] theorem setPlaces_missQueue (k : ApId) (p : Checkpoints) (s : State) : (setPlaces k p s).missQueue = s.missQueue := rfl
@[simp] theorem setPlaces_unqueued (k : ApId) (p : Checkpoints) (s : State) : (setPlaces k p s).unqueued = s.unqueued := rfl
@[simp] theorem setPlaces_postQueue (k : ApId) (p : Checkpoints) (s : State) : (setPlaces k p s).postQueue = s.postQueue := rfl
@[simp] theorem setPlaces_slots (k : ApId) (p : Checkpoints) (s : State) : (setPlaces k p s).slots = s.slots := rfl
@[simp] theorem setPlaces_requesters (k : ApId) (p : Checkpoints) (s : State) : (setPlaces k p s).requesters = s.requesters := rfl
@[simp] theorem setPlaces_tags (k : ApId) (p : Checkpoints) (s : State) : (setPlaces k p s).tags = s.tags := rfl
@[simp] theorem setPlaces_parked (k : ApId) (p : Checkpoints) (s : State) : (setPlaces k p s).parked = s.parked := rfl
@[simp] theorem setPlaces_lastGrant (k : ApId) (p : Checkpoints) (s : State) : (setPlaces k p s).lastGrant = s.lastGrant := rfl
@[simp] theorem setPlaces_settings (k : ApId) (p : Checkpoints) (s : State) : (setPlaces k p s).settings = s.settings := rfl
@[simp] theorem setPlaces_reports (k : ApId) (p : Checkpoints) (s : State) : (setPlaces k p s).reports = s.reports := rfl
@[simp] theorem setPlaces_dropped (k : ApId) (p : Checkpoints) (s : State) : (setPlaces k p s).dropped = s.dropped := rfl
@[simp] theorem setPlaces_quiescing (k : ApId) (p : Checkpoints) (s : State) : (setPlaces k p s).quiescing = s.quiescing := rfl
@[simp] theorem setPlaces_response (k : ApId) (p : Checkpoints) (s : State) : (setPlaces k p s).response = s.response := rfl
@[simp] theorem setPlaces_out (k : ApId) (p : Checkpoints) (s : State) : (setPlaces k p s).out = s.out := rfl
@[simp] theorem setPlaces_nextAge (k : ApId) (p : Checkpoints) (s : State) : (setPlaces k p s).nextAge = s.nextAge := rfl
@[simp] theorem setPlaces_choices (k : ApId) (p : Checkpoints) (s : State) : (setPlaces k p s).choices = s.choices := rfl

/-! ### setReq -/

@[simp] theorem setReq_pending (r : ReqId) (q : Requester) (s : State) : (setReq r q s).pending = s.pending := rfl
@[simp] theorem setReq_resetLow (r : ReqId) (q : Requester) (s : State) : (setReq r q s).resetLow = s.resetLow := rfl
@[simp] theorem setReq_tickCounter (r : ReqId) (q : Requester) (s : State) : (setReq r q s).tickCounter = s.tickCounter := rfl
@[simp] theorem setReq_apertures (r : ReqId) (q : Requester) (s : State) : (setReq r q s).apertures = s.apertures := rfl
@[simp] theorem setReq_checkpoints (r : ReqId) (q : Requester) (s : State) : (setReq r q s).checkpoints = s.checkpoints := rfl
@[simp] theorem setReq_jobs (r : ReqId) (q : Requester) (s : State) : (setReq r q s).jobs = s.jobs := rfl
@[simp] theorem setReq_validation (r : ReqId) (q : Requester) (s : State) : (setReq r q s).validation = s.validation := rfl
@[simp] theorem setReq_cache (r : ReqId) (q : Requester) (s : State) : (setReq r q s).cache = s.cache := rfl
@[simp] theorem setReq_missQueue (r : ReqId) (q : Requester) (s : State) : (setReq r q s).missQueue = s.missQueue := rfl
@[simp] theorem setReq_unqueued (r : ReqId) (q : Requester) (s : State) : (setReq r q s).unqueued = s.unqueued := rfl
@[simp] theorem setReq_postQueue (r : ReqId) (q : Requester) (s : State) : (setReq r q s).postQueue = s.postQueue := rfl
@[simp] theorem setReq_slots (r : ReqId) (q : Requester) (s : State) : (setReq r q s).slots = s.slots := rfl
@[simp] theorem setReq_tags (r : ReqId) (q : Requester) (s : State) : (setReq r q s).tags = s.tags := rfl
@[simp] theorem setReq_parked (r : ReqId) (q : Requester) (s : State) : (setReq r q s).parked = s.parked := rfl
@[simp] theorem setReq_lastGrant (r : ReqId) (q : Requester) (s : State) : (setReq r q s).lastGrant = s.lastGrant := rfl
@[simp] theorem setReq_settings (r : ReqId) (q : Requester) (s : State) : (setReq r q s).settings = s.settings := rfl
@[simp] theorem setReq_reports (r : ReqId) (q : Requester) (s : State) : (setReq r q s).reports = s.reports := rfl
@[simp] theorem setReq_dropped (r : ReqId) (q : Requester) (s : State) : (setReq r q s).dropped = s.dropped := rfl
@[simp] theorem setReq_quiescing (r : ReqId) (q : Requester) (s : State) : (setReq r q s).quiescing = s.quiescing := rfl
@[simp] theorem setReq_response (r : ReqId) (q : Requester) (s : State) : (setReq r q s).response = s.response := rfl
@[simp] theorem setReq_out (r : ReqId) (q : Requester) (s : State) : (setReq r q s).out = s.out := rfl
@[simp] theorem setReq_nextAge (r : ReqId) (q : Requester) (s : State) : (setReq r q s).nextAge = s.nextAge := rfl
@[simp] theorem setReq_choices (r : ReqId) (q : Requester) (s : State) : (setReq r q s).choices = s.choices := rfl

/-! ### updReq -/

@[simp] theorem updReq_pending (r : ReqId) (f : Requester → Requester) (s : State) : (updReq r f s).pending = s.pending := rfl
@[simp] theorem updReq_resetLow (r : ReqId) (f : Requester → Requester) (s : State) : (updReq r f s).resetLow = s.resetLow := rfl
@[simp] theorem updReq_tickCounter (r : ReqId) (f : Requester → Requester) (s : State) : (updReq r f s).tickCounter = s.tickCounter := rfl
@[simp] theorem updReq_apertures (r : ReqId) (f : Requester → Requester) (s : State) : (updReq r f s).apertures = s.apertures := rfl
@[simp] theorem updReq_checkpoints (r : ReqId) (f : Requester → Requester) (s : State) : (updReq r f s).checkpoints = s.checkpoints := rfl
@[simp] theorem updReq_jobs (r : ReqId) (f : Requester → Requester) (s : State) : (updReq r f s).jobs = s.jobs := rfl
@[simp] theorem updReq_validation (r : ReqId) (f : Requester → Requester) (s : State) : (updReq r f s).validation = s.validation := rfl
@[simp] theorem updReq_cache (r : ReqId) (f : Requester → Requester) (s : State) : (updReq r f s).cache = s.cache := rfl
@[simp] theorem updReq_missQueue (r : ReqId) (f : Requester → Requester) (s : State) : (updReq r f s).missQueue = s.missQueue := rfl
@[simp] theorem updReq_unqueued (r : ReqId) (f : Requester → Requester) (s : State) : (updReq r f s).unqueued = s.unqueued := rfl
@[simp] theorem updReq_postQueue (r : ReqId) (f : Requester → Requester) (s : State) : (updReq r f s).postQueue = s.postQueue := rfl
@[simp] theorem updReq_slots (r : ReqId) (f : Requester → Requester) (s : State) : (updReq r f s).slots = s.slots := rfl
@[simp] theorem updReq_tags (r : ReqId) (f : Requester → Requester) (s : State) : (updReq r f s).tags = s.tags := rfl
@[simp] theorem updReq_parked (r : ReqId) (f : Requester → Requester) (s : State) : (updReq r f s).parked = s.parked := rfl
@[simp] theorem updReq_lastGrant (r : ReqId) (f : Requester → Requester) (s : State) : (updReq r f s).lastGrant = s.lastGrant := rfl
@[simp] theorem updReq_settings (r : ReqId) (f : Requester → Requester) (s : State) : (updReq r f s).settings = s.settings := rfl
@[simp] theorem updReq_reports (r : ReqId) (f : Requester → Requester) (s : State) : (updReq r f s).reports = s.reports := rfl
@[simp] theorem updReq_dropped (r : ReqId) (f : Requester → Requester) (s : State) : (updReq r f s).dropped = s.dropped := rfl
@[simp] theorem updReq_quiescing (r : ReqId) (f : Requester → Requester) (s : State) : (updReq r f s).quiescing = s.quiescing := rfl
@[simp] theorem updReq_response (r : ReqId) (f : Requester → Requester) (s : State) : (updReq r f s).response = s.response := rfl
@[simp] theorem updReq_out (r : ReqId) (f : Requester → Requester) (s : State) : (updReq r f s).out = s.out := rfl
@[simp] theorem updReq_nextAge (r : ReqId) (f : Requester → Requester) (s : State) : (updReq r f s).nextAge = s.nextAge := rfl
@[simp] theorem updReq_choices (r : ReqId) (f : Requester → Requester) (s : State) : (updReq r f s).choices = s.choices := rfl

/-! ### setSlot -/

@[simp] theorem setSlot_pending (n : SlotId) (x : Option Slot) (s : State) : (setSlot n x s).pending = s.pending := rfl
@[simp] theorem setSlot_resetLow (n : SlotId) (x : Option Slot) (s : State) : (setSlot n x s).resetLow = s.resetLow := rfl
@[simp] theorem setSlot_tickCounter (n : SlotId) (x : Option Slot) (s : State) : (setSlot n x s).tickCounter = s.tickCounter := rfl
@[simp] theorem setSlot_apertures (n : SlotId) (x : Option Slot) (s : State) : (setSlot n x s).apertures = s.apertures := rfl
@[simp] theorem setSlot_checkpoints (n : SlotId) (x : Option Slot) (s : State) : (setSlot n x s).checkpoints = s.checkpoints := rfl
@[simp] theorem setSlot_jobs (n : SlotId) (x : Option Slot) (s : State) : (setSlot n x s).jobs = s.jobs := rfl
@[simp] theorem setSlot_validation (n : SlotId) (x : Option Slot) (s : State) : (setSlot n x s).validation = s.validation := rfl
@[simp] theorem setSlot_cache (n : SlotId) (x : Option Slot) (s : State) : (setSlot n x s).cache = s.cache := rfl
@[simp] theorem setSlot_missQueue (n : SlotId) (x : Option Slot) (s : State) : (setSlot n x s).missQueue = s.missQueue := rfl
@[simp] theorem setSlot_unqueued (n : SlotId) (x : Option Slot) (s : State) : (setSlot n x s).unqueued = s.unqueued := rfl
@[simp] theorem setSlot_postQueue (n : SlotId) (x : Option Slot) (s : State) : (setSlot n x s).postQueue = s.postQueue := rfl
@[simp] theorem setSlot_requesters (n : SlotId) (x : Option Slot) (s : State) : (setSlot n x s).requesters = s.requesters := rfl
@[simp] theorem setSlot_tags (n : SlotId) (x : Option Slot) (s : State) : (setSlot n x s).tags = s.tags := rfl
@[simp] theorem setSlot_parked (n : SlotId) (x : Option Slot) (s : State) : (setSlot n x s).parked = s.parked := rfl
@[simp] theorem setSlot_lastGrant (n : SlotId) (x : Option Slot) (s : State) : (setSlot n x s).lastGrant = s.lastGrant := rfl
@[simp] theorem setSlot_settings (n : SlotId) (x : Option Slot) (s : State) : (setSlot n x s).settings = s.settings := rfl
@[simp] theorem setSlot_reports (n : SlotId) (x : Option Slot) (s : State) : (setSlot n x s).reports = s.reports := rfl
@[simp] theorem setSlot_dropped (n : SlotId) (x : Option Slot) (s : State) : (setSlot n x s).dropped = s.dropped := rfl
@[simp] theorem setSlot_quiescing (n : SlotId) (x : Option Slot) (s : State) : (setSlot n x s).quiescing = s.quiescing := rfl
@[simp] theorem setSlot_response (n : SlotId) (x : Option Slot) (s : State) : (setSlot n x s).response = s.response := rfl
@[simp] theorem setSlot_out (n : SlotId) (x : Option Slot) (s : State) : (setSlot n x s).out = s.out := rfl
@[simp] theorem setSlot_nextAge (n : SlotId) (x : Option Slot) (s : State) : (setSlot n x s).nextAge = s.nextAge := rfl
@[simp] theorem setSlot_choices (n : SlotId) (x : Option Slot) (s : State) : (setSlot n x s).choices = s.choices := rfl

/-! ### updSlot -/

@[simp] theorem updSlot_pending (n : SlotId) (f : Slot → Slot) (s : State) : (updSlot n f s).pending = s.pending := rfl
@[simp] theorem updSlot_resetLow (n : SlotId) (f : Slot → Slot) (s : State) : (updSlot n f s).resetLow = s.resetLow := rfl
@[simp] theorem updSlot_tickCounter (n : SlotId) (f : Slot → Slot) (s : State) : (updSlot n f s).tickCounter = s.tickCounter := rfl
@[simp] theorem updSlot_apertures (n : SlotId) (f : Slot → Slot) (s : State) : (updSlot n f s).apertures = s.apertures := rfl
@[simp] theorem updSlot_checkpoints (n : SlotId) (f : Slot → Slot) (s : State) : (updSlot n f s).checkpoints = s.checkpoints := rfl
@[simp] theorem updSlot_jobs (n : SlotId) (f : Slot → Slot) (s : State) : (updSlot n f s).jobs = s.jobs := rfl
@[simp] theorem updSlot_validation (n : SlotId) (f : Slot → Slot) (s : State) : (updSlot n f s).validation = s.validation := rfl
@[simp] theorem updSlot_cache (n : SlotId) (f : Slot → Slot) (s : State) : (updSlot n f s).cache = s.cache := rfl
@[simp] theorem updSlot_missQueue (n : SlotId) (f : Slot → Slot) (s : State) : (updSlot n f s).missQueue = s.missQueue := rfl
@[simp] theorem updSlot_unqueued (n : SlotId) (f : Slot → Slot) (s : State) : (updSlot n f s).unqueued = s.unqueued := rfl
@[simp] theorem updSlot_postQueue (n : SlotId) (f : Slot → Slot) (s : State) : (updSlot n f s).postQueue = s.postQueue := rfl
@[simp] theorem updSlot_requesters (n : SlotId) (f : Slot → Slot) (s : State) : (updSlot n f s).requesters = s.requesters := rfl
@[simp] theorem updSlot_tags (n : SlotId) (f : Slot → Slot) (s : State) : (updSlot n f s).tags = s.tags := rfl
@[simp] theorem updSlot_parked (n : SlotId) (f : Slot → Slot) (s : State) : (updSlot n f s).parked = s.parked := rfl
@[simp] theorem updSlot_lastGrant (n : SlotId) (f : Slot → Slot) (s : State) : (updSlot n f s).lastGrant = s.lastGrant := rfl
@[simp] theorem updSlot_settings (n : SlotId) (f : Slot → Slot) (s : State) : (updSlot n f s).settings = s.settings := rfl
@[simp] theorem updSlot_reports (n : SlotId) (f : Slot → Slot) (s : State) : (updSlot n f s).reports = s.reports := rfl
@[simp] theorem updSlot_dropped (n : SlotId) (f : Slot → Slot) (s : State) : (updSlot n f s).dropped = s.dropped := rfl
@[simp] theorem updSlot_quiescing (n : SlotId) (f : Slot → Slot) (s : State) : (updSlot n f s).quiescing = s.quiescing := rfl
@[simp] theorem updSlot_response (n : SlotId) (f : Slot → Slot) (s : State) : (updSlot n f s).response = s.response := rfl
@[simp] theorem updSlot_out (n : SlotId) (f : Slot → Slot) (s : State) : (updSlot n f s).out = s.out := rfl
@[simp] theorem updSlot_nextAge (n : SlotId) (f : Slot → Slot) (s : State) : (updSlot n f s).nextAge = s.nextAge := rfl
@[simp] theorem updSlot_choices (n : SlotId) (f : Slot → Slot) (s : State) : (updSlot n f s).choices = s.choices := rfl

/-! ### setTag -/

@[simp] theorem setTag_pending (t : TagId) (x : TagState) (s : State) : (setTag t x s).pending = s.pending := rfl
@[simp] theorem setTag_resetLow (t : TagId) (x : TagState) (s : State) : (setTag t x s).resetLow = s.resetLow := rfl
@[simp] theorem setTag_tickCounter (t : TagId) (x : TagState) (s : State) : (setTag t x s).tickCounter = s.tickCounter := rfl
@[simp] theorem setTag_apertures (t : TagId) (x : TagState) (s : State) : (setTag t x s).apertures = s.apertures := rfl
@[simp] theorem setTag_checkpoints (t : TagId) (x : TagState) (s : State) : (setTag t x s).checkpoints = s.checkpoints := rfl
@[simp] theorem setTag_jobs (t : TagId) (x : TagState) (s : State) : (setTag t x s).jobs = s.jobs := rfl
@[simp] theorem setTag_validation (t : TagId) (x : TagState) (s : State) : (setTag t x s).validation = s.validation := rfl
@[simp] theorem setTag_cache (t : TagId) (x : TagState) (s : State) : (setTag t x s).cache = s.cache := rfl
@[simp] theorem setTag_missQueue (t : TagId) (x : TagState) (s : State) : (setTag t x s).missQueue = s.missQueue := rfl
@[simp] theorem setTag_unqueued (t : TagId) (x : TagState) (s : State) : (setTag t x s).unqueued = s.unqueued := rfl
@[simp] theorem setTag_postQueue (t : TagId) (x : TagState) (s : State) : (setTag t x s).postQueue = s.postQueue := rfl
@[simp] theorem setTag_slots (t : TagId) (x : TagState) (s : State) : (setTag t x s).slots = s.slots := rfl
@[simp] theorem setTag_requesters (t : TagId) (x : TagState) (s : State) : (setTag t x s).requesters = s.requesters := rfl
@[simp] theorem setTag_parked (t : TagId) (x : TagState) (s : State) : (setTag t x s).parked = s.parked := rfl
@[simp] theorem setTag_lastGrant (t : TagId) (x : TagState) (s : State) : (setTag t x s).lastGrant = s.lastGrant := rfl
@[simp] theorem setTag_settings (t : TagId) (x : TagState) (s : State) : (setTag t x s).settings = s.settings := rfl
@[simp] theorem setTag_reports (t : TagId) (x : TagState) (s : State) : (setTag t x s).reports = s.reports := rfl
@[simp] theorem setTag_dropped (t : TagId) (x : TagState) (s : State) : (setTag t x s).dropped = s.dropped := rfl
@[simp] theorem setTag_quiescing (t : TagId) (x : TagState) (s : State) : (setTag t x s).quiescing = s.quiescing := rfl
@[simp] theorem setTag_response (t : TagId) (x : TagState) (s : State) : (setTag t x s).response = s.response := rfl
@[simp] theorem setTag_out (t : TagId) (x : TagState) (s : State) : (setTag t x s).out = s.out := rfl
@[simp] theorem setTag_nextAge (t : TagId) (x : TagState) (s : State) : (setTag t x s).nextAge = s.nextAge := rfl
@[simp] theorem setTag_choices (t : TagId) (x : TagState) (s : State) : (setTag t x s).choices = s.choices := rfl

/-! ### setPostQueue -/

@[simp] theorem setPostQueue_pending (q : List PostEntry) (s : State) : (setPostQueue q s).pending = s.pending := rfl
@[simp] theorem setPostQueue_resetLow (q : List PostEntry) (s : State) : (setPostQueue q s).resetLow = s.resetLow := rfl
@[simp] theorem setPostQueue_tickCounter (q : List PostEntry) (s : State) : (setPostQueue q s).tickCounter = s.tickCounter := rfl
@[simp] theorem setPostQueue_apertures (q : List PostEntry) (s : State) : (setPostQueue q s).apertures = s.apertures := rfl
@[simp] theorem setPostQueue_checkpoints (q : List PostEntry) (s : State) : (setPostQueue q s).checkpoints = s.checkpoints := rfl
@[simp] theorem setPostQueue_jobs (q : List PostEntry) (s : State) : (setPostQueue q s).jobs = s.jobs := rfl
@[simp] theorem setPostQueue_validation (q : List PostEntry) (s : State) : (setPostQueue q s).validation = s.validation := rfl
@[simp] theorem setPostQueue_cache (q : List PostEntry) (s : State) : (setPostQueue q s).cache = s.cache := rfl
@[simp] theorem setPostQueue_missQueue (q : List PostEntry) (s : State) : (setPostQueue q s).missQueue = s.missQueue := rfl
@[simp] theorem setPostQueue_unqueued (q : List PostEntry) (s : State) : (setPostQueue q s).unqueued = s.unqueued := rfl
@[simp] theorem setPostQueue_slots (q : List PostEntry) (s : State) : (setPostQueue q s).slots = s.slots := rfl
@[simp] theorem setPostQueue_requesters (q : List PostEntry) (s : State) : (setPostQueue q s).requesters = s.requesters := rfl
@[simp] theorem setPostQueue_tags (q : List PostEntry) (s : State) : (setPostQueue q s).tags = s.tags := rfl
@[simp] theorem setPostQueue_parked (q : List PostEntry) (s : State) : (setPostQueue q s).parked = s.parked := rfl
@[simp] theorem setPostQueue_lastGrant (q : List PostEntry) (s : State) : (setPostQueue q s).lastGrant = s.lastGrant := rfl
@[simp] theorem setPostQueue_settings (q : List PostEntry) (s : State) : (setPostQueue q s).settings = s.settings := rfl
@[simp] theorem setPostQueue_reports (q : List PostEntry) (s : State) : (setPostQueue q s).reports = s.reports := rfl
@[simp] theorem setPostQueue_dropped (q : List PostEntry) (s : State) : (setPostQueue q s).dropped = s.dropped := rfl
@[simp] theorem setPostQueue_quiescing (q : List PostEntry) (s : State) : (setPostQueue q s).quiescing = s.quiescing := rfl
@[simp] theorem setPostQueue_response (q : List PostEntry) (s : State) : (setPostQueue q s).response = s.response := rfl
@[simp] theorem setPostQueue_out (q : List PostEntry) (s : State) : (setPostQueue q s).out = s.out := rfl
@[simp] theorem setPostQueue_nextAge (q : List PostEntry) (s : State) : (setPostQueue q s).nextAge = s.nextAge := rfl
@[simp] theorem setPostQueue_choices (q : List PostEntry) (s : State) : (setPostQueue q s).choices = s.choices := rfl

/-! ### updEntry -/

@[simp] theorem updEntry_pending (r : ReqId) (q : Seq) (f : PostEntry → PostEntry) (s : State) : (updEntry r q f s).pending = s.pending := rfl
@[simp] theorem updEntry_resetLow (r : ReqId) (q : Seq) (f : PostEntry → PostEntry) (s : State) : (updEntry r q f s).resetLow = s.resetLow := rfl
@[simp] theorem updEntry_tickCounter (r : ReqId) (q : Seq) (f : PostEntry → PostEntry) (s : State) : (updEntry r q f s).tickCounter = s.tickCounter := rfl
@[simp] theorem updEntry_apertures (r : ReqId) (q : Seq) (f : PostEntry → PostEntry) (s : State) : (updEntry r q f s).apertures = s.apertures := rfl
@[simp] theorem updEntry_checkpoints (r : ReqId) (q : Seq) (f : PostEntry → PostEntry) (s : State) : (updEntry r q f s).checkpoints = s.checkpoints := rfl
@[simp] theorem updEntry_jobs (r : ReqId) (q : Seq) (f : PostEntry → PostEntry) (s : State) : (updEntry r q f s).jobs = s.jobs := rfl
@[simp] theorem updEntry_validation (r : ReqId) (q : Seq) (f : PostEntry → PostEntry) (s : State) : (updEntry r q f s).validation = s.validation := rfl
@[simp] theorem updEntry_cache (r : ReqId) (q : Seq) (f : PostEntry → PostEntry) (s : State) : (updEntry r q f s).cache = s.cache := rfl
@[simp] theorem updEntry_missQueue (r : ReqId) (q : Seq) (f : PostEntry → PostEntry) (s : State) : (updEntry r q f s).missQueue = s.missQueue := rfl
@[simp] theorem updEntry_unqueued (r : ReqId) (q : Seq) (f : PostEntry → PostEntry) (s : State) : (updEntry r q f s).unqueued = s.unqueued := rfl
@[simp] theorem updEntry_slots (r : ReqId) (q : Seq) (f : PostEntry → PostEntry) (s : State) : (updEntry r q f s).slots = s.slots := rfl
@[simp] theorem updEntry_requesters (r : ReqId) (q : Seq) (f : PostEntry → PostEntry) (s : State) : (updEntry r q f s).requesters = s.requesters := rfl
@[simp] theorem updEntry_tags (r : ReqId) (q : Seq) (f : PostEntry → PostEntry) (s : State) : (updEntry r q f s).tags = s.tags := rfl
@[simp] theorem updEntry_parked (r : ReqId) (q : Seq) (f : PostEntry → PostEntry) (s : State) : (updEntry r q f s).parked = s.parked := rfl
@[simp] theorem updEntry_lastGrant (r : ReqId) (q : Seq) (f : PostEntry → PostEntry) (s : State) : (updEntry r q f s).lastGrant = s.lastGrant := rfl
@[simp] theorem updEntry_settings (r : ReqId) (q : Seq) (f : PostEntry → PostEntry) (s : State) : (updEntry r q f s).settings = s.settings := rfl
@[simp] theorem updEntry_reports (r : ReqId) (q : Seq) (f : PostEntry → PostEntry) (s : State) : (updEntry r q f s).reports = s.reports := rfl
@[simp] theorem updEntry_dropped (r : ReqId) (q : Seq) (f : PostEntry → PostEntry) (s : State) : (updEntry r q f s).dropped = s.dropped := rfl
@[simp] theorem updEntry_quiescing (r : ReqId) (q : Seq) (f : PostEntry → PostEntry) (s : State) : (updEntry r q f s).quiescing = s.quiescing := rfl
@[simp] theorem updEntry_response (r : ReqId) (q : Seq) (f : PostEntry → PostEntry) (s : State) : (updEntry r q f s).response = s.response := rfl
@[simp] theorem updEntry_out (r : ReqId) (q : Seq) (f : PostEntry → PostEntry) (s : State) : (updEntry r q f s).out = s.out := rfl
@[simp] theorem updEntry_nextAge (r : ReqId) (q : Seq) (f : PostEntry → PostEntry) (s : State) : (updEntry r q f s).nextAge = s.nextAge := rfl
@[simp] theorem updEntry_choices (r : ReqId) (q : Seq) (f : PostEntry → PostEntry) (s : State) : (updEntry r q f s).choices = s.choices := rfl

/-! ### beginEvent -/

@[simp] theorem beginEvent_pending (s : State) : (beginEvent s).pending = s.pending := rfl
@[simp] theorem beginEvent_resetLow (s : State) : (beginEvent s).resetLow = s.resetLow := rfl
@[simp] theorem beginEvent_tickCounter (s : State) : (beginEvent s).tickCounter = s.tickCounter := rfl
@[simp] theorem beginEvent_apertures (s : State) : (beginEvent s).apertures = s.apertures := rfl
@[simp] theorem beginEvent_checkpoints (s : State) : (beginEvent s).checkpoints = s.checkpoints := rfl
@[simp] theorem beginEvent_jobs (s : State) : (beginEvent s).jobs = s.jobs := rfl
@[simp] theorem beginEvent_validation (s : State) : (beginEvent s).validation = s.validation := rfl
@[simp] theorem beginEvent_cache (s : State) : (beginEvent s).cache = s.cache := rfl
@[simp] theorem beginEvent_missQueue (s : State) : (beginEvent s).missQueue = s.missQueue := rfl
@[simp] theorem beginEvent_unqueued (s : State) : (beginEvent s).unqueued = s.unqueued := rfl
@[simp] theorem beginEvent_postQueue (s : State) : (beginEvent s).postQueue = s.postQueue := rfl
@[simp] theorem beginEvent_slots (s : State) : (beginEvent s).slots = s.slots := rfl
@[simp] theorem beginEvent_requesters (s : State) : (beginEvent s).requesters = s.requesters := rfl
@[simp] theorem beginEvent_tags (s : State) : (beginEvent s).tags = s.tags := rfl
@[simp] theorem beginEvent_parked (s : State) : (beginEvent s).parked = s.parked := rfl
@[simp] theorem beginEvent_lastGrant (s : State) : (beginEvent s).lastGrant = s.lastGrant := rfl
@[simp] theorem beginEvent_settings (s : State) : (beginEvent s).settings = s.settings := rfl
@[simp] theorem beginEvent_reports (s : State) : (beginEvent s).reports = s.reports := rfl
@[simp] theorem beginEvent_dropped (s : State) : (beginEvent s).dropped = s.dropped := rfl
@[simp] theorem beginEvent_quiescing (s : State) : (beginEvent s).quiescing = s.quiescing := rfl
@[simp] theorem beginEvent_response (s : State) : (beginEvent s).response = s.response := rfl
@[simp] theorem beginEvent_nextAge (s : State) : (beginEvent s).nextAge = s.nextAge := rfl
@[simp] theorem beginEvent_choices (s : State) : (beginEvent s).choices = s.choices := rfl

/-! ### respond -/

@[simp] theorem respond_pending (b : BusResponse) (s : State) : (respond b s).pending = s.pending := rfl
@[simp] theorem respond_resetLow (b : BusResponse) (s : State) : (respond b s).resetLow = s.resetLow := rfl
@[simp] theorem respond_tickCounter (b : BusResponse) (s : State) : (respond b s).tickCounter = s.tickCounter := rfl
@[simp] theorem respond_apertures (b : BusResponse) (s : State) : (respond b s).apertures = s.apertures := rfl
@[simp] theorem respond_checkpoints (b : BusResponse) (s : State) : (respond b s).checkpoints = s.checkpoints := rfl
@[simp] theorem respond_jobs (b : BusResponse) (s : State) : (respond b s).jobs = s.jobs := rfl
@[simp] theorem respond_validation (b : BusResponse) (s : State) : (respond b s).validation = s.validation := rfl
@[simp] theorem respond_cache (b : BusResponse) (s : State) : (respond b s).cache = s.cache := rfl
@[simp] theorem respond_missQueue (b : BusResponse) (s : State) : (respond b s).missQueue = s.missQueue := rfl
@[simp] theorem respond_unqueued (b : BusResponse) (s : State) : (respond b s).unqueued = s.unqueued := rfl
@[simp] theorem respond_postQueue (b : BusResponse) (s : State) : (respond b s).postQueue = s.postQueue := rfl
@[simp] theorem respond_slots (b : BusResponse) (s : State) : (respond b s).slots = s.slots := rfl
@[simp] theorem respond_requesters (b : BusResponse) (s : State) : (respond b s).requesters = s.requesters := rfl
@[simp] theorem respond_tags (b : BusResponse) (s : State) : (respond b s).tags = s.tags := rfl
@[simp] theorem respond_parked (b : BusResponse) (s : State) : (respond b s).parked = s.parked := rfl
@[simp] theorem respond_lastGrant (b : BusResponse) (s : State) : (respond b s).lastGrant = s.lastGrant := rfl
@[simp] theorem respond_settings (b : BusResponse) (s : State) : (respond b s).settings = s.settings := rfl
@[simp] theorem respond_reports (b : BusResponse) (s : State) : (respond b s).reports = s.reports := rfl
@[simp] theorem respond_dropped (b : BusResponse) (s : State) : (respond b s).dropped = s.dropped := rfl
@[simp] theorem respond_quiescing (b : BusResponse) (s : State) : (respond b s).quiescing = s.quiescing := rfl
@[simp] theorem respond_response (b : BusResponse) (s : State) : (respond b s).response = s.response := rfl
@[simp] theorem respond_nextAge (b : BusResponse) (s : State) : (respond b s).nextAge = s.nextAge := rfl
@[simp] theorem respond_choices (b : BusResponse) (s : State) : (respond b s).choices = s.choices := rfl

/-! ### countRefusal -/

@[simp] theorem countRefusal_pending (r : ReqId) (s : State) : (countRefusal r s).pending = s.pending := rfl
@[simp] theorem countRefusal_resetLow (r : ReqId) (s : State) : (countRefusal r s).resetLow = s.resetLow := rfl
@[simp] theorem countRefusal_tickCounter (r : ReqId) (s : State) : (countRefusal r s).tickCounter = s.tickCounter := rfl
@[simp] theorem countRefusal_apertures (r : ReqId) (s : State) : (countRefusal r s).apertures = s.apertures := rfl
@[simp] theorem countRefusal_checkpoints (r : ReqId) (s : State) : (countRefusal r s).checkpoints = s.checkpoints := rfl
@[simp] theorem countRefusal_jobs (r : ReqId) (s : State) : (countRefusal r s).jobs = s.jobs := rfl
@[simp] theorem countRefusal_validation (r : ReqId) (s : State) : (countRefusal r s).validation = s.validation := rfl
@[simp] theorem countRefusal_cache (r : ReqId) (s : State) : (countRefusal r s).cache = s.cache := rfl
@[simp] theorem countRefusal_missQueue (r : ReqId) (s : State) : (countRefusal r s).missQueue = s.missQueue := rfl
@[simp] theorem countRefusal_unqueued (r : ReqId) (s : State) : (countRefusal r s).unqueued = s.unqueued := rfl
@[simp] theorem countRefusal_postQueue (r : ReqId) (s : State) : (countRefusal r s).postQueue = s.postQueue := rfl
@[simp] theorem countRefusal_slots (r : ReqId) (s : State) : (countRefusal r s).slots = s.slots := rfl
@[simp] theorem countRefusal_tags (r : ReqId) (s : State) : (countRefusal r s).tags = s.tags := rfl
@[simp] theorem countRefusal_parked (r : ReqId) (s : State) : (countRefusal r s).parked = s.parked := rfl
@[simp] theorem countRefusal_lastGrant (r : ReqId) (s : State) : (countRefusal r s).lastGrant = s.lastGrant := rfl
@[simp] theorem countRefusal_settings (r : ReqId) (s : State) : (countRefusal r s).settings = s.settings := rfl
@[simp] theorem countRefusal_reports (r : ReqId) (s : State) : (countRefusal r s).reports = s.reports := rfl
@[simp] theorem countRefusal_dropped (r : ReqId) (s : State) : (countRefusal r s).dropped = s.dropped := rfl
@[simp] theorem countRefusal_quiescing (r : ReqId) (s : State) : (countRefusal r s).quiescing = s.quiescing := rfl
@[simp] theorem countRefusal_response (r : ReqId) (s : State) : (countRefusal r s).response = s.response := rfl
@[simp] theorem countRefusal_out (r : ReqId) (s : State) : (countRefusal r s).out = s.out := rfl
@[simp] theorem countRefusal_nextAge (r : ReqId) (s : State) : (countRefusal r s).nextAge = s.nextAge := rfl
@[simp] theorem countRefusal_choices (r : ReqId) (s : State) : (countRefusal r s).choices = s.choices := rfl

/-! ### invalidateWhere -/

@[simp] theorem invalidateWhere_pending (p : CacheEntry → Bool) (s : State) : (invalidateWhere p s).pending = s.pending := rfl
@[simp] theorem invalidateWhere_resetLow (p : CacheEntry → Bool) (s : State) : (invalidateWhere p s).resetLow = s.resetLow := rfl
@[simp] theorem invalidateWhere_tickCounter (p : CacheEntry → Bool) (s : State) : (invalidateWhere p s).tickCounter = s.tickCounter := rfl
@[simp] theorem invalidateWhere_apertures (p : CacheEntry → Bool) (s : State) : (invalidateWhere p s).apertures = s.apertures := rfl
@[simp] theorem invalidateWhere_checkpoints (p : CacheEntry → Bool) (s : State) : (invalidateWhere p s).checkpoints = s.checkpoints := rfl
@[simp] theorem invalidateWhere_jobs (p : CacheEntry → Bool) (s : State) : (invalidateWhere p s).jobs = s.jobs := rfl
@[simp] theorem invalidateWhere_validation (p : CacheEntry → Bool) (s : State) : (invalidateWhere p s).validation = s.validation := rfl
@[simp] theorem invalidateWhere_missQueue (p : CacheEntry → Bool) (s : State) : (invalidateWhere p s).missQueue = s.missQueue := rfl
@[simp] theorem invalidateWhere_unqueued (p : CacheEntry → Bool) (s : State) : (invalidateWhere p s).unqueued = s.unqueued := rfl
@[simp] theorem invalidateWhere_postQueue (p : CacheEntry → Bool) (s : State) : (invalidateWhere p s).postQueue = s.postQueue := rfl
@[simp] theorem invalidateWhere_slots (p : CacheEntry → Bool) (s : State) : (invalidateWhere p s).slots = s.slots := rfl
@[simp] theorem invalidateWhere_requesters (p : CacheEntry → Bool) (s : State) : (invalidateWhere p s).requesters = s.requesters := rfl
@[simp] theorem invalidateWhere_tags (p : CacheEntry → Bool) (s : State) : (invalidateWhere p s).tags = s.tags := rfl
@[simp] theorem invalidateWhere_parked (p : CacheEntry → Bool) (s : State) : (invalidateWhere p s).parked = s.parked := rfl
@[simp] theorem invalidateWhere_lastGrant (p : CacheEntry → Bool) (s : State) : (invalidateWhere p s).lastGrant = s.lastGrant := rfl
@[simp] theorem invalidateWhere_settings (p : CacheEntry → Bool) (s : State) : (invalidateWhere p s).settings = s.settings := rfl
@[simp] theorem invalidateWhere_reports (p : CacheEntry → Bool) (s : State) : (invalidateWhere p s).reports = s.reports := rfl
@[simp] theorem invalidateWhere_dropped (p : CacheEntry → Bool) (s : State) : (invalidateWhere p s).dropped = s.dropped := rfl
@[simp] theorem invalidateWhere_quiescing (p : CacheEntry → Bool) (s : State) : (invalidateWhere p s).quiescing = s.quiescing := rfl
@[simp] theorem invalidateWhere_response (p : CacheEntry → Bool) (s : State) : (invalidateWhere p s).response = s.response := rfl
@[simp] theorem invalidateWhere_out (p : CacheEntry → Bool) (s : State) : (invalidateWhere p s).out = s.out := rfl
@[simp] theorem invalidateWhere_nextAge (p : CacheEntry → Bool) (s : State) : (invalidateWhere p s).nextAge = s.nextAge := rfl
@[simp] theorem invalidateWhere_choices (p : CacheEntry → Bool) (s : State) : (invalidateWhere p s).choices = s.choices := rfl

/-! ### invalidateAp -/

@[simp] theorem invalidateAp_pending (k : ApId) (s : State) : (invalidateAp k s).pending = s.pending := rfl
@[simp] theorem invalidateAp_resetLow (k : ApId) (s : State) : (invalidateAp k s).resetLow = s.resetLow := rfl
@[simp] theorem invalidateAp_tickCounter (k : ApId) (s : State) : (invalidateAp k s).tickCounter = s.tickCounter := rfl
@[simp] theorem invalidateAp_apertures (k : ApId) (s : State) : (invalidateAp k s).apertures = s.apertures := rfl
@[simp] theorem invalidateAp_checkpoints (k : ApId) (s : State) : (invalidateAp k s).checkpoints = s.checkpoints := rfl
@[simp] theorem invalidateAp_jobs (k : ApId) (s : State) : (invalidateAp k s).jobs = s.jobs := rfl
@[simp] theorem invalidateAp_validation (k : ApId) (s : State) : (invalidateAp k s).validation = s.validation := rfl
@[simp] theorem invalidateAp_missQueue (k : ApId) (s : State) : (invalidateAp k s).missQueue = s.missQueue := rfl
@[simp] theorem invalidateAp_unqueued (k : ApId) (s : State) : (invalidateAp k s).unqueued = s.unqueued := rfl
@[simp] theorem invalidateAp_postQueue (k : ApId) (s : State) : (invalidateAp k s).postQueue = s.postQueue := rfl
@[simp] theorem invalidateAp_slots (k : ApId) (s : State) : (invalidateAp k s).slots = s.slots := rfl
@[simp] theorem invalidateAp_requesters (k : ApId) (s : State) : (invalidateAp k s).requesters = s.requesters := rfl
@[simp] theorem invalidateAp_tags (k : ApId) (s : State) : (invalidateAp k s).tags = s.tags := rfl
@[simp] theorem invalidateAp_parked (k : ApId) (s : State) : (invalidateAp k s).parked = s.parked := rfl
@[simp] theorem invalidateAp_lastGrant (k : ApId) (s : State) : (invalidateAp k s).lastGrant = s.lastGrant := rfl
@[simp] theorem invalidateAp_settings (k : ApId) (s : State) : (invalidateAp k s).settings = s.settings := rfl
@[simp] theorem invalidateAp_reports (k : ApId) (s : State) : (invalidateAp k s).reports = s.reports := rfl
@[simp] theorem invalidateAp_dropped (k : ApId) (s : State) : (invalidateAp k s).dropped = s.dropped := rfl
@[simp] theorem invalidateAp_quiescing (k : ApId) (s : State) : (invalidateAp k s).quiescing = s.quiescing := rfl
@[simp] theorem invalidateAp_response (k : ApId) (s : State) : (invalidateAp k s).response = s.response := rfl
@[simp] theorem invalidateAp_out (k : ApId) (s : State) : (invalidateAp k s).out = s.out := rfl
@[simp] theorem invalidateAp_nextAge (k : ApId) (s : State) : (invalidateAp k s).nextAge = s.nextAge := rfl
@[simp] theorem invalidateAp_choices (k : ApId) (s : State) : (invalidateAp k s).choices = s.choices := rfl

/-! ### touch -/

@[simp] theorem touch_pending (i : Fin 32) (s : State) : (touch i s).pending = s.pending := by simp only [touch]
@[simp] theorem touch_resetLow (i : Fin 32) (s : State) : (touch i s).resetLow = s.resetLow := by simp only [touch]
@[simp] theorem touch_tickCounter (i : Fin 32) (s : State) : (touch i s).tickCounter = s.tickCounter := by simp only [touch]
@[simp] theorem touch_apertures (i : Fin 32) (s : State) : (touch i s).apertures = s.apertures := by simp only [touch]
@[simp] theorem touch_checkpoints (i : Fin 32) (s : State) : (touch i s).checkpoints = s.checkpoints := by simp only [touch]
@[simp] theorem touch_jobs (i : Fin 32) (s : State) : (touch i s).jobs = s.jobs := by simp only [touch]
@[simp] theorem touch_validation (i : Fin 32) (s : State) : (touch i s).validation = s.validation := by simp only [touch]
@[simp] theorem touch_missQueue (i : Fin 32) (s : State) : (touch i s).missQueue = s.missQueue := by simp only [touch]
@[simp] theorem touch_unqueued (i : Fin 32) (s : State) : (touch i s).unqueued = s.unqueued := by simp only [touch]
@[simp] theorem touch_postQueue (i : Fin 32) (s : State) : (touch i s).postQueue = s.postQueue := by simp only [touch]
@[simp] theorem touch_slots (i : Fin 32) (s : State) : (touch i s).slots = s.slots := by simp only [touch]
@[simp] theorem touch_requesters (i : Fin 32) (s : State) : (touch i s).requesters = s.requesters := by simp only [touch]
@[simp] theorem touch_tags (i : Fin 32) (s : State) : (touch i s).tags = s.tags := by simp only [touch]
@[simp] theorem touch_parked (i : Fin 32) (s : State) : (touch i s).parked = s.parked := by simp only [touch]
@[simp] theorem touch_lastGrant (i : Fin 32) (s : State) : (touch i s).lastGrant = s.lastGrant := by simp only [touch]
@[simp] theorem touch_settings (i : Fin 32) (s : State) : (touch i s).settings = s.settings := by simp only [touch]
@[simp] theorem touch_reports (i : Fin 32) (s : State) : (touch i s).reports = s.reports := by simp only [touch]
@[simp] theorem touch_dropped (i : Fin 32) (s : State) : (touch i s).dropped = s.dropped := by simp only [touch]
@[simp] theorem touch_quiescing (i : Fin 32) (s : State) : (touch i s).quiescing = s.quiescing := by simp only [touch]
@[simp] theorem touch_response (i : Fin 32) (s : State) : (touch i s).response = s.response := by simp only [touch]
@[simp] theorem touch_out (i : Fin 32) (s : State) : (touch i s).out = s.out := by simp only [touch]
@[simp] theorem touch_nextAge (i : Fin 32) (s : State) : (touch i s).nextAge = s.nextAge := by simp only [touch]
@[simp] theorem touch_choices (i : Fin 32) (s : State) : (touch i s).choices = s.choices := by simp only [touch]

/-! ### setCached -/

@[simp] theorem setCached_pending (i : Fin 32) (e : CacheEntry) (s : State) : (setCached i e s).pending = s.pending := rfl
@[simp] theorem setCached_resetLow (i : Fin 32) (e : CacheEntry) (s : State) : (setCached i e s).resetLow = s.resetLow := rfl
@[simp] theorem setCached_tickCounter (i : Fin 32) (e : CacheEntry) (s : State) : (setCached i e s).tickCounter = s.tickCounter := rfl
@[simp] theorem setCached_apertures (i : Fin 32) (e : CacheEntry) (s : State) : (setCached i e s).apertures = s.apertures := rfl
@[simp] theorem setCached_checkpoints (i : Fin 32) (e : CacheEntry) (s : State) : (setCached i e s).checkpoints = s.checkpoints := rfl
@[simp] theorem setCached_jobs (i : Fin 32) (e : CacheEntry) (s : State) : (setCached i e s).jobs = s.jobs := rfl
@[simp] theorem setCached_validation (i : Fin 32) (e : CacheEntry) (s : State) : (setCached i e s).validation = s.validation := rfl
@[simp] theorem setCached_missQueue (i : Fin 32) (e : CacheEntry) (s : State) : (setCached i e s).missQueue = s.missQueue := rfl
@[simp] theorem setCached_unqueued (i : Fin 32) (e : CacheEntry) (s : State) : (setCached i e s).unqueued = s.unqueued := rfl
@[simp] theorem setCached_postQueue (i : Fin 32) (e : CacheEntry) (s : State) : (setCached i e s).postQueue = s.postQueue := rfl
@[simp] theorem setCached_slots (i : Fin 32) (e : CacheEntry) (s : State) : (setCached i e s).slots = s.slots := rfl
@[simp] theorem setCached_requesters (i : Fin 32) (e : CacheEntry) (s : State) : (setCached i e s).requesters = s.requesters := rfl
@[simp] theorem setCached_tags (i : Fin 32) (e : CacheEntry) (s : State) : (setCached i e s).tags = s.tags := rfl
@[simp] theorem setCached_parked (i : Fin 32) (e : CacheEntry) (s : State) : (setCached i e s).parked = s.parked := rfl
@[simp] theorem setCached_lastGrant (i : Fin 32) (e : CacheEntry) (s : State) : (setCached i e s).lastGrant = s.lastGrant := rfl
@[simp] theorem setCached_settings (i : Fin 32) (e : CacheEntry) (s : State) : (setCached i e s).settings = s.settings := rfl
@[simp] theorem setCached_reports (i : Fin 32) (e : CacheEntry) (s : State) : (setCached i e s).reports = s.reports := rfl
@[simp] theorem setCached_dropped (i : Fin 32) (e : CacheEntry) (s : State) : (setCached i e s).dropped = s.dropped := rfl
@[simp] theorem setCached_quiescing (i : Fin 32) (e : CacheEntry) (s : State) : (setCached i e s).quiescing = s.quiescing := rfl
@[simp] theorem setCached_response (i : Fin 32) (e : CacheEntry) (s : State) : (setCached i e s).response = s.response := rfl
@[simp] theorem setCached_out (i : Fin 32) (e : CacheEntry) (s : State) : (setCached i e s).out = s.out := rfl
@[simp] theorem setCached_nextAge (i : Fin 32) (e : CacheEntry) (s : State) : (setCached i e s).nextAge = s.nextAge := rfl
@[simp] theorem setCached_choices (i : Fin 32) (e : CacheEntry) (s : State) : (setCached i e s).choices = s.choices := rfl

/-! ### park -/

@[simp] theorem park_pending (op : Op) (s : State) : (park op s).pending = s.pending := rfl
@[simp] theorem park_resetLow (op : Op) (s : State) : (park op s).resetLow = s.resetLow := rfl
@[simp] theorem park_tickCounter (op : Op) (s : State) : (park op s).tickCounter = s.tickCounter := rfl
@[simp] theorem park_apertures (op : Op) (s : State) : (park op s).apertures = s.apertures := rfl
@[simp] theorem park_checkpoints (op : Op) (s : State) : (park op s).checkpoints = s.checkpoints := rfl
@[simp] theorem park_jobs (op : Op) (s : State) : (park op s).jobs = s.jobs := rfl
@[simp] theorem park_validation (op : Op) (s : State) : (park op s).validation = s.validation := rfl
@[simp] theorem park_cache (op : Op) (s : State) : (park op s).cache = s.cache := rfl
@[simp] theorem park_missQueue (op : Op) (s : State) : (park op s).missQueue = s.missQueue := rfl
@[simp] theorem park_unqueued (op : Op) (s : State) : (park op s).unqueued = s.unqueued := rfl
@[simp] theorem park_postQueue (op : Op) (s : State) : (park op s).postQueue = s.postQueue := rfl
@[simp] theorem park_slots (op : Op) (s : State) : (park op s).slots = s.slots := rfl
@[simp] theorem park_requesters (op : Op) (s : State) : (park op s).requesters = s.requesters := rfl
@[simp] theorem park_tags (op : Op) (s : State) : (park op s).tags = s.tags := rfl
@[simp] theorem park_lastGrant (op : Op) (s : State) : (park op s).lastGrant = s.lastGrant := rfl
@[simp] theorem park_settings (op : Op) (s : State) : (park op s).settings = s.settings := rfl
@[simp] theorem park_reports (op : Op) (s : State) : (park op s).reports = s.reports := rfl
@[simp] theorem park_dropped (op : Op) (s : State) : (park op s).dropped = s.dropped := rfl
@[simp] theorem park_quiescing (op : Op) (s : State) : (park op s).quiescing = s.quiescing := rfl
@[simp] theorem park_response (op : Op) (s : State) : (park op s).response = s.response := rfl
@[simp] theorem park_out (op : Op) (s : State) : (park op s).out = s.out := rfl
@[simp] theorem park_nextAge (op : Op) (s : State) : (park op s).nextAge = s.nextAge := rfl
@[simp] theorem park_choices (op : Op) (s : State) : (park op s).choices = s.choices := rfl

/-! ### unpark -/

@[simp] theorem unpark_pending (o : OpName) (s : State) : (unpark o s).pending = s.pending := rfl
@[simp] theorem unpark_resetLow (o : OpName) (s : State) : (unpark o s).resetLow = s.resetLow := rfl
@[simp] theorem unpark_tickCounter (o : OpName) (s : State) : (unpark o s).tickCounter = s.tickCounter := rfl
@[simp] theorem unpark_apertures (o : OpName) (s : State) : (unpark o s).apertures = s.apertures := rfl
@[simp] theorem unpark_checkpoints (o : OpName) (s : State) : (unpark o s).checkpoints = s.checkpoints := rfl
@[simp] theorem unpark_jobs (o : OpName) (s : State) : (unpark o s).jobs = s.jobs := rfl
@[simp] theorem unpark_validation (o : OpName) (s : State) : (unpark o s).validation = s.validation := rfl
@[simp] theorem unpark_cache (o : OpName) (s : State) : (unpark o s).cache = s.cache := rfl
@[simp] theorem unpark_missQueue (o : OpName) (s : State) : (unpark o s).missQueue = s.missQueue := rfl
@[simp] theorem unpark_unqueued (o : OpName) (s : State) : (unpark o s).unqueued = s.unqueued := rfl
@[simp] theorem unpark_postQueue (o : OpName) (s : State) : (unpark o s).postQueue = s.postQueue := rfl
@[simp] theorem unpark_slots (o : OpName) (s : State) : (unpark o s).slots = s.slots := rfl
@[simp] theorem unpark_requesters (o : OpName) (s : State) : (unpark o s).requesters = s.requesters := rfl
@[simp] theorem unpark_tags (o : OpName) (s : State) : (unpark o s).tags = s.tags := rfl
@[simp] theorem unpark_lastGrant (o : OpName) (s : State) : (unpark o s).lastGrant = s.lastGrant := rfl
@[simp] theorem unpark_settings (o : OpName) (s : State) : (unpark o s).settings = s.settings := rfl
@[simp] theorem unpark_reports (o : OpName) (s : State) : (unpark o s).reports = s.reports := rfl
@[simp] theorem unpark_dropped (o : OpName) (s : State) : (unpark o s).dropped = s.dropped := rfl
@[simp] theorem unpark_quiescing (o : OpName) (s : State) : (unpark o s).quiescing = s.quiescing := rfl
@[simp] theorem unpark_response (o : OpName) (s : State) : (unpark o s).response = s.response := rfl
@[simp] theorem unpark_out (o : OpName) (s : State) : (unpark o s).out = s.out := rfl
@[simp] theorem unpark_nextAge (o : OpName) (s : State) : (unpark o s).nextAge = s.nextAge := rfl
@[simp] theorem unpark_choices (o : OpName) (s : State) : (unpark o s).choices = s.choices := rfl

/-! ### cancelOps -/

@[simp] theorem cancelOps_pending (p : OpName → Bool) (g : Bool) (s : State) : (cancelOps p g s).pending = s.pending := rfl
@[simp] theorem cancelOps_resetLow (p : OpName → Bool) (g : Bool) (s : State) : (cancelOps p g s).resetLow = s.resetLow := rfl
@[simp] theorem cancelOps_tickCounter (p : OpName → Bool) (g : Bool) (s : State) : (cancelOps p g s).tickCounter = s.tickCounter := rfl
@[simp] theorem cancelOps_apertures (p : OpName → Bool) (g : Bool) (s : State) : (cancelOps p g s).apertures = s.apertures := rfl
@[simp] theorem cancelOps_checkpoints (p : OpName → Bool) (g : Bool) (s : State) : (cancelOps p g s).checkpoints = s.checkpoints := rfl
@[simp] theorem cancelOps_jobs (p : OpName → Bool) (g : Bool) (s : State) : (cancelOps p g s).jobs = s.jobs := rfl
@[simp] theorem cancelOps_validation (p : OpName → Bool) (g : Bool) (s : State) : (cancelOps p g s).validation = s.validation := rfl
@[simp] theorem cancelOps_cache (p : OpName → Bool) (g : Bool) (s : State) : (cancelOps p g s).cache = s.cache := rfl
@[simp] theorem cancelOps_missQueue (p : OpName → Bool) (g : Bool) (s : State) : (cancelOps p g s).missQueue = s.missQueue := rfl
@[simp] theorem cancelOps_unqueued (p : OpName → Bool) (g : Bool) (s : State) : (cancelOps p g s).unqueued = s.unqueued := rfl
@[simp] theorem cancelOps_postQueue (p : OpName → Bool) (g : Bool) (s : State) : (cancelOps p g s).postQueue = s.postQueue := rfl
@[simp] theorem cancelOps_slots (p : OpName → Bool) (g : Bool) (s : State) : (cancelOps p g s).slots = s.slots := rfl
@[simp] theorem cancelOps_requesters (p : OpName → Bool) (g : Bool) (s : State) : (cancelOps p g s).requesters = s.requesters := rfl
@[simp] theorem cancelOps_lastGrant (p : OpName → Bool) (g : Bool) (s : State) : (cancelOps p g s).lastGrant = s.lastGrant := rfl
@[simp] theorem cancelOps_settings (p : OpName → Bool) (g : Bool) (s : State) : (cancelOps p g s).settings = s.settings := rfl
@[simp] theorem cancelOps_reports (p : OpName → Bool) (g : Bool) (s : State) : (cancelOps p g s).reports = s.reports := rfl
@[simp] theorem cancelOps_dropped (p : OpName → Bool) (g : Bool) (s : State) : (cancelOps p g s).dropped = s.dropped := rfl
@[simp] theorem cancelOps_quiescing (p : OpName → Bool) (g : Bool) (s : State) : (cancelOps p g s).quiescing = s.quiescing := rfl
@[simp] theorem cancelOps_response (p : OpName → Bool) (g : Bool) (s : State) : (cancelOps p g s).response = s.response := rfl
@[simp] theorem cancelOps_out (p : OpName → Bool) (g : Bool) (s : State) : (cancelOps p g s).out = s.out := rfl
@[simp] theorem cancelOps_nextAge (p : OpName → Bool) (g : Bool) (s : State) : (cancelOps p g s).nextAge = s.nextAge := rfl
@[simp] theorem cancelOps_choices (p : OpName → Bool) (g : Bool) (s : State) : (cancelOps p g s).choices = s.choices := rfl

/-! ### issue -/

@[simp] theorem issue_pending (t : TagId) (op : Op) (s : State) : (issue t op s).pending = s.pending := rfl
@[simp] theorem issue_resetLow (t : TagId) (op : Op) (s : State) : (issue t op s).resetLow = s.resetLow := rfl
@[simp] theorem issue_tickCounter (t : TagId) (op : Op) (s : State) : (issue t op s).tickCounter = s.tickCounter := rfl
@[simp] theorem issue_apertures (t : TagId) (op : Op) (s : State) : (issue t op s).apertures = s.apertures := rfl
@[simp] theorem issue_checkpoints (t : TagId) (op : Op) (s : State) : (issue t op s).checkpoints = s.checkpoints := rfl
@[simp] theorem issue_jobs (t : TagId) (op : Op) (s : State) : (issue t op s).jobs = s.jobs := rfl
@[simp] theorem issue_validation (t : TagId) (op : Op) (s : State) : (issue t op s).validation = s.validation := rfl
@[simp] theorem issue_cache (t : TagId) (op : Op) (s : State) : (issue t op s).cache = s.cache := rfl
@[simp] theorem issue_missQueue (t : TagId) (op : Op) (s : State) : (issue t op s).missQueue = s.missQueue := rfl
@[simp] theorem issue_unqueued (t : TagId) (op : Op) (s : State) : (issue t op s).unqueued = s.unqueued := rfl
@[simp] theorem issue_postQueue (t : TagId) (op : Op) (s : State) : (issue t op s).postQueue = s.postQueue := rfl
@[simp] theorem issue_slots (t : TagId) (op : Op) (s : State) : (issue t op s).slots = s.slots := rfl
@[simp] theorem issue_requesters (t : TagId) (op : Op) (s : State) : (issue t op s).requesters = s.requesters := rfl
@[simp] theorem issue_parked (t : TagId) (op : Op) (s : State) : (issue t op s).parked = s.parked := rfl
@[simp] theorem issue_lastGrant (t : TagId) (op : Op) (s : State) : (issue t op s).lastGrant = s.lastGrant := rfl
@[simp] theorem issue_settings (t : TagId) (op : Op) (s : State) : (issue t op s).settings = s.settings := rfl
@[simp] theorem issue_reports (t : TagId) (op : Op) (s : State) : (issue t op s).reports = s.reports := rfl
@[simp] theorem issue_dropped (t : TagId) (op : Op) (s : State) : (issue t op s).dropped = s.dropped := rfl
@[simp] theorem issue_quiescing (t : TagId) (op : Op) (s : State) : (issue t op s).quiescing = s.quiescing := rfl
@[simp] theorem issue_response (t : TagId) (op : Op) (s : State) : (issue t op s).response = s.response := rfl
@[simp] theorem issue_nextAge (t : TagId) (op : Op) (s : State) : (issue t op s).nextAge = s.nextAge := rfl
@[simp] theorem issue_choices (t : TagId) (op : Op) (s : State) : (issue t op s).choices = s.choices := rfl

/-! ### detach -/

@[simp] theorem detach_pending (o : OwnerRef) (s : State) : (detach o s).pending = s.pending := rfl
@[simp] theorem detach_resetLow (o : OwnerRef) (s : State) : (detach o s).resetLow = s.resetLow := rfl
@[simp] theorem detach_tickCounter (o : OwnerRef) (s : State) : (detach o s).tickCounter = s.tickCounter := rfl
@[simp] theorem detach_apertures (o : OwnerRef) (s : State) : (detach o s).apertures = s.apertures := rfl
@[simp] theorem detach_checkpoints (o : OwnerRef) (s : State) : (detach o s).checkpoints = s.checkpoints := rfl
@[simp] theorem detach_jobs (o : OwnerRef) (s : State) : (detach o s).jobs = s.jobs := rfl
@[simp] theorem detach_validation (o : OwnerRef) (s : State) : (detach o s).validation = s.validation := rfl
@[simp] theorem detach_cache (o : OwnerRef) (s : State) : (detach o s).cache = s.cache := rfl
@[simp] theorem detach_postQueue (o : OwnerRef) (s : State) : (detach o s).postQueue = s.postQueue := rfl
@[simp] theorem detach_slots (o : OwnerRef) (s : State) : (detach o s).slots = s.slots := rfl
@[simp] theorem detach_requesters (o : OwnerRef) (s : State) : (detach o s).requesters = s.requesters := rfl
@[simp] theorem detach_tags (o : OwnerRef) (s : State) : (detach o s).tags = s.tags := rfl
@[simp] theorem detach_parked (o : OwnerRef) (s : State) : (detach o s).parked = s.parked := rfl
@[simp] theorem detach_lastGrant (o : OwnerRef) (s : State) : (detach o s).lastGrant = s.lastGrant := rfl
@[simp] theorem detach_settings (o : OwnerRef) (s : State) : (detach o s).settings = s.settings := rfl
@[simp] theorem detach_reports (o : OwnerRef) (s : State) : (detach o s).reports = s.reports := rfl
@[simp] theorem detach_dropped (o : OwnerRef) (s : State) : (detach o s).dropped = s.dropped := rfl
@[simp] theorem detach_quiescing (o : OwnerRef) (s : State) : (detach o s).quiescing = s.quiescing := rfl
@[simp] theorem detach_response (o : OwnerRef) (s : State) : (detach o s).response = s.response := rfl
@[simp] theorem detach_out (o : OwnerRef) (s : State) : (detach o s).out = s.out := rfl
@[simp] theorem detach_nextAge (o : OwnerRef) (s : State) : (detach o s).nextAge = s.nextAge := rfl
@[simp] theorem detach_choices (o : OwnerRef) (s : State) : (detach o s).choices = s.choices := rfl

/-! ### joinJob -/

@[simp] theorem joinJob_pending (k : ApId) (p : Purpose) (l : ListRef) (s : State) : (joinJob k p l s).pending = s.pending := rfl
@[simp] theorem joinJob_resetLow (k : ApId) (p : Purpose) (l : ListRef) (s : State) : (joinJob k p l s).resetLow = s.resetLow := rfl
@[simp] theorem joinJob_tickCounter (k : ApId) (p : Purpose) (l : ListRef) (s : State) : (joinJob k p l s).tickCounter = s.tickCounter := rfl
@[simp] theorem joinJob_apertures (k : ApId) (p : Purpose) (l : ListRef) (s : State) : (joinJob k p l s).apertures = s.apertures := rfl
@[simp] theorem joinJob_checkpoints (k : ApId) (p : Purpose) (l : ListRef) (s : State) : (joinJob k p l s).checkpoints = s.checkpoints := rfl
@[simp] theorem joinJob_validation (k : ApId) (p : Purpose) (l : ListRef) (s : State) : (joinJob k p l s).validation = s.validation := rfl
@[simp] theorem joinJob_cache (k : ApId) (p : Purpose) (l : ListRef) (s : State) : (joinJob k p l s).cache = s.cache := rfl
@[simp] theorem joinJob_missQueue (k : ApId) (p : Purpose) (l : ListRef) (s : State) : (joinJob k p l s).missQueue = s.missQueue := rfl
@[simp] theorem joinJob_unqueued (k : ApId) (p : Purpose) (l : ListRef) (s : State) : (joinJob k p l s).unqueued = s.unqueued := rfl
@[simp] theorem joinJob_postQueue (k : ApId) (p : Purpose) (l : ListRef) (s : State) : (joinJob k p l s).postQueue = s.postQueue := rfl
@[simp] theorem joinJob_slots (k : ApId) (p : Purpose) (l : ListRef) (s : State) : (joinJob k p l s).slots = s.slots := rfl
@[simp] theorem joinJob_requesters (k : ApId) (p : Purpose) (l : ListRef) (s : State) : (joinJob k p l s).requesters = s.requesters := rfl
@[simp] theorem joinJob_tags (k : ApId) (p : Purpose) (l : ListRef) (s : State) : (joinJob k p l s).tags = s.tags := rfl
@[simp] theorem joinJob_parked (k : ApId) (p : Purpose) (l : ListRef) (s : State) : (joinJob k p l s).parked = s.parked := rfl
@[simp] theorem joinJob_lastGrant (k : ApId) (p : Purpose) (l : ListRef) (s : State) : (joinJob k p l s).lastGrant = s.lastGrant := rfl
@[simp] theorem joinJob_settings (k : ApId) (p : Purpose) (l : ListRef) (s : State) : (joinJob k p l s).settings = s.settings := rfl
@[simp] theorem joinJob_reports (k : ApId) (p : Purpose) (l : ListRef) (s : State) : (joinJob k p l s).reports = s.reports := rfl
@[simp] theorem joinJob_dropped (k : ApId) (p : Purpose) (l : ListRef) (s : State) : (joinJob k p l s).dropped = s.dropped := rfl
@[simp] theorem joinJob_quiescing (k : ApId) (p : Purpose) (l : ListRef) (s : State) : (joinJob k p l s).quiescing = s.quiescing := rfl
@[simp] theorem joinJob_response (k : ApId) (p : Purpose) (l : ListRef) (s : State) : (joinJob k p l s).response = s.response := rfl
@[simp] theorem joinJob_out (k : ApId) (p : Purpose) (l : ListRef) (s : State) : (joinJob k p l s).out = s.out := rfl
@[simp] theorem joinJob_nextAge (k : ApId) (p : Purpose) (l : ListRef) (s : State) : (joinJob k p l s).nextAge = s.nextAge := rfl
@[simp] theorem joinJob_choices (k : ApId) (p : Purpose) (l : ListRef) (s : State) : (joinJob k p l s).choices = s.choices := rfl

/-! ### closeJob -/

@[simp] theorem closeJob_pending (s : State) : (closeJob s).pending = s.pending := rfl
@[simp] theorem closeJob_resetLow (s : State) : (closeJob s).resetLow = s.resetLow := rfl
@[simp] theorem closeJob_tickCounter (s : State) : (closeJob s).tickCounter = s.tickCounter := rfl
@[simp] theorem closeJob_apertures (s : State) : (closeJob s).apertures = s.apertures := rfl
@[simp] theorem closeJob_checkpoints (s : State) : (closeJob s).checkpoints = s.checkpoints := rfl
@[simp] theorem closeJob_cache (s : State) : (closeJob s).cache = s.cache := rfl
@[simp] theorem closeJob_missQueue (s : State) : (closeJob s).missQueue = s.missQueue := rfl
@[simp] theorem closeJob_unqueued (s : State) : (closeJob s).unqueued = s.unqueued := rfl
@[simp] theorem closeJob_postQueue (s : State) : (closeJob s).postQueue = s.postQueue := rfl
@[simp] theorem closeJob_slots (s : State) : (closeJob s).slots = s.slots := rfl
@[simp] theorem closeJob_requesters (s : State) : (closeJob s).requesters = s.requesters := rfl
@[simp] theorem closeJob_lastGrant (s : State) : (closeJob s).lastGrant = s.lastGrant := rfl
@[simp] theorem closeJob_settings (s : State) : (closeJob s).settings = s.settings := rfl
@[simp] theorem closeJob_reports (s : State) : (closeJob s).reports = s.reports := rfl
@[simp] theorem closeJob_dropped (s : State) : (closeJob s).dropped = s.dropped := rfl
@[simp] theorem closeJob_quiescing (s : State) : (closeJob s).quiescing = s.quiescing := rfl
@[simp] theorem closeJob_response (s : State) : (closeJob s).response = s.response := rfl
@[simp] theorem closeJob_out (s : State) : (closeJob s).out = s.out := rfl
@[simp] theorem closeJob_nextAge (s : State) : (closeJob s).nextAge = s.nextAge := rfl
@[simp] theorem closeJob_choices (s : State) : (closeJob s).choices = s.choices := rfl

/-! ### clearMarks -/

@[simp] theorem clearMarks_pending (k : ApId) (s : State) : (clearMarks k s).pending = s.pending := rfl
@[simp] theorem clearMarks_resetLow (k : ApId) (s : State) : (clearMarks k s).resetLow = s.resetLow := rfl
@[simp] theorem clearMarks_tickCounter (k : ApId) (s : State) : (clearMarks k s).tickCounter = s.tickCounter := rfl
@[simp] theorem clearMarks_apertures (k : ApId) (s : State) : (clearMarks k s).apertures = s.apertures := rfl
@[simp] theorem clearMarks_checkpoints (k : ApId) (s : State) : (clearMarks k s).checkpoints = s.checkpoints := rfl
@[simp] theorem clearMarks_jobs (k : ApId) (s : State) : (clearMarks k s).jobs = s.jobs := rfl
@[simp] theorem clearMarks_validation (k : ApId) (s : State) : (clearMarks k s).validation = s.validation := rfl
@[simp] theorem clearMarks_cache (k : ApId) (s : State) : (clearMarks k s).cache = s.cache := rfl
@[simp] theorem clearMarks_unqueued (k : ApId) (s : State) : (clearMarks k s).unqueued = s.unqueued := rfl
@[simp] theorem clearMarks_requesters (k : ApId) (s : State) : (clearMarks k s).requesters = s.requesters := rfl
@[simp] theorem clearMarks_tags (k : ApId) (s : State) : (clearMarks k s).tags = s.tags := rfl
@[simp] theorem clearMarks_parked (k : ApId) (s : State) : (clearMarks k s).parked = s.parked := rfl
@[simp] theorem clearMarks_lastGrant (k : ApId) (s : State) : (clearMarks k s).lastGrant = s.lastGrant := rfl
@[simp] theorem clearMarks_settings (k : ApId) (s : State) : (clearMarks k s).settings = s.settings := rfl
@[simp] theorem clearMarks_reports (k : ApId) (s : State) : (clearMarks k s).reports = s.reports := rfl
@[simp] theorem clearMarks_dropped (k : ApId) (s : State) : (clearMarks k s).dropped = s.dropped := rfl
@[simp] theorem clearMarks_quiescing (k : ApId) (s : State) : (clearMarks k s).quiescing = s.quiescing := rfl
@[simp] theorem clearMarks_response (k : ApId) (s : State) : (clearMarks k s).response = s.response := rfl
@[simp] theorem clearMarks_out (k : ApId) (s : State) : (clearMarks k s).out = s.out := rfl
@[simp] theorem clearMarks_nextAge (k : ApId) (s : State) : (clearMarks k s).nextAge = s.nextAge := rfl
@[simp] theorem clearMarks_choices (k : ApId) (s : State) : (clearMarks k s).choices = s.choices := rfl

/-! ### dropWalks -/

@[simp] theorem dropWalks_pending (k : ApId) (s : State) : (dropWalks k s).pending = s.pending := rfl
@[simp] theorem dropWalks_resetLow (k : ApId) (s : State) : (dropWalks k s).resetLow = s.resetLow := rfl
@[simp] theorem dropWalks_tickCounter (k : ApId) (s : State) : (dropWalks k s).tickCounter = s.tickCounter := rfl
@[simp] theorem dropWalks_apertures (k : ApId) (s : State) : (dropWalks k s).apertures = s.apertures := rfl
@[simp] theorem dropWalks_checkpoints (k : ApId) (s : State) : (dropWalks k s).checkpoints = s.checkpoints := rfl
@[simp] theorem dropWalks_jobs (k : ApId) (s : State) : (dropWalks k s).jobs = s.jobs := rfl
@[simp] theorem dropWalks_validation (k : ApId) (s : State) : (dropWalks k s).validation = s.validation := rfl
@[simp] theorem dropWalks_cache (k : ApId) (s : State) : (dropWalks k s).cache = s.cache := rfl
@[simp] theorem dropWalks_unqueued (k : ApId) (s : State) : (dropWalks k s).unqueued = s.unqueued := rfl
@[simp] theorem dropWalks_postQueue (k : ApId) (s : State) : (dropWalks k s).postQueue = s.postQueue := rfl
@[simp] theorem dropWalks_slots (k : ApId) (s : State) : (dropWalks k s).slots = s.slots := rfl
@[simp] theorem dropWalks_requesters (k : ApId) (s : State) : (dropWalks k s).requesters = s.requesters := rfl
@[simp] theorem dropWalks_tags (k : ApId) (s : State) : (dropWalks k s).tags = s.tags := rfl
@[simp] theorem dropWalks_parked (k : ApId) (s : State) : (dropWalks k s).parked = s.parked := rfl
@[simp] theorem dropWalks_lastGrant (k : ApId) (s : State) : (dropWalks k s).lastGrant = s.lastGrant := rfl
@[simp] theorem dropWalks_settings (k : ApId) (s : State) : (dropWalks k s).settings = s.settings := rfl
@[simp] theorem dropWalks_reports (k : ApId) (s : State) : (dropWalks k s).reports = s.reports := rfl
@[simp] theorem dropWalks_dropped (k : ApId) (s : State) : (dropWalks k s).dropped = s.dropped := rfl
@[simp] theorem dropWalks_quiescing (k : ApId) (s : State) : (dropWalks k s).quiescing = s.quiescing := rfl
@[simp] theorem dropWalks_response (k : ApId) (s : State) : (dropWalks k s).response = s.response := rfl
@[simp] theorem dropWalks_out (k : ApId) (s : State) : (dropWalks k s).out = s.out := rfl
@[simp] theorem dropWalks_nextAge (k : ApId) (s : State) : (dropWalks k s).nextAge = s.nextAge := rfl
@[simp] theorem dropWalks_choices (k : ApId) (s : State) : (dropWalks k s).choices = s.choices := rfl

/-! ### Readings of the cache -/

/-- The next reading comes after that of every entry (log entry 18). -/
theorem reading_lt_nextReading (i : Fin 32) (s : State) : (s.cached i).reading < nextReading s := by
  have aux : ∀ (l : List (Fin 32)) (n : Nat), n ≤ l.foldl (fun n j => max n (s.cached j).reading) n ∧
      ∀ j ∈ l, (s.cached j).reading ≤ l.foldl (fun n j => max n (s.cached j).reading) n := by
    intro l
    induction l with
    | nil => simp
    | cons j l ih =>
      intro n
      have h := ih (max n (s.cached j).reading)
      refine ⟨le_trans (le_max_left _ _) h.1, fun k hk => ?_⟩
      rcases List.mem_cons.mp hk with rfl | hk
      · exact le_trans (le_max_right _ _) h.1
      · exact h.2 k hk
  exact Nat.lt_succ_of_le ((aux _ 0).2 i (List.mem_finRange i))

/-! ### Lanes -/

/-- A byte of an access within one line is on the lane of its place in that line (R73, R138). -/
theorem byteLane_inside {a : Addr} {j : Nat} (h : linePos a + j < 64) : byteLane a j = linePos a + j := Nat.mod_eq_of_lt h

/-- An operation on a line that a walk or a job reads lies within that line (R30, R65). -/
theorem entriesInLine_inside (list : Addr) (count i : Nat) (h : list.toNat + 16 * i < 2 ^ 40) :
    linePos (entryAddress list i) + 16 * entriesInLine list count i ≤ 64 := by
  have e : (entryAddress list i).toNat = list.toNat + 16 * i := by
    rw [entryAddress, BitVec.toNat_ofNat, Nat.mod_eq_of_lt h]
  simp only [linePos, e, entriesInLine]
  omega

/-! ### markOld -/

@[simp] theorem markOld_pending (k : ApId) (g : Gen) (s : State) : (markOld k g s).pending = s.pending := rfl
@[simp] theorem markOld_resetLow (k : ApId) (g : Gen) (s : State) : (markOld k g s).resetLow = s.resetLow := rfl
@[simp] theorem markOld_tickCounter (k : ApId) (g : Gen) (s : State) : (markOld k g s).tickCounter = s.tickCounter := rfl
@[simp] theorem markOld_apertures (k : ApId) (g : Gen) (s : State) : (markOld k g s).apertures = s.apertures := rfl
@[simp] theorem markOld_checkpoints (k : ApId) (g : Gen) (s : State) : (markOld k g s).checkpoints = s.checkpoints := rfl
@[simp] theorem markOld_jobs (k : ApId) (g : Gen) (s : State) : (markOld k g s).jobs = s.jobs := rfl
@[simp] theorem markOld_validation (k : ApId) (g : Gen) (s : State) : (markOld k g s).validation = s.validation := rfl
@[simp] theorem markOld_cache (k : ApId) (g : Gen) (s : State) : (markOld k g s).cache = s.cache := rfl
@[simp] theorem markOld_unqueued (k : ApId) (g : Gen) (s : State) : (markOld k g s).unqueued = s.unqueued := rfl
@[simp] theorem markOld_requesters (k : ApId) (g : Gen) (s : State) : (markOld k g s).requesters = s.requesters := rfl
@[simp] theorem markOld_tags (k : ApId) (g : Gen) (s : State) : (markOld k g s).tags = s.tags := rfl
@[simp] theorem markOld_parked (k : ApId) (g : Gen) (s : State) : (markOld k g s).parked = s.parked := rfl
@[simp] theorem markOld_lastGrant (k : ApId) (g : Gen) (s : State) : (markOld k g s).lastGrant = s.lastGrant := rfl
@[simp] theorem markOld_settings (k : ApId) (g : Gen) (s : State) : (markOld k g s).settings = s.settings := rfl
@[simp] theorem markOld_reports (k : ApId) (g : Gen) (s : State) : (markOld k g s).reports = s.reports := rfl
@[simp] theorem markOld_dropped (k : ApId) (g : Gen) (s : State) : (markOld k g s).dropped = s.dropped := rfl
@[simp] theorem markOld_quiescing (k : ApId) (g : Gen) (s : State) : (markOld k g s).quiescing = s.quiescing := rfl
@[simp] theorem markOld_response (k : ApId) (g : Gen) (s : State) : (markOld k g s).response = s.response := rfl
@[simp] theorem markOld_out (k : ApId) (g : Gen) (s : State) : (markOld k g s).out = s.out := rfl
@[simp] theorem markOld_nextAge (k : ApId) (g : Gen) (s : State) : (markOld k g s).nextAge = s.nextAge := rfl
@[simp] theorem markOld_choices (k : ApId) (g : Gen) (s : State) : (markOld k g s).choices = s.choices := rfl

/-! ### enterFree -/

@[simp] theorem enterFree_pending (k : ApId) (s : State) : (enterFree k s).pending = s.pending := rfl
@[simp] theorem enterFree_resetLow (k : ApId) (s : State) : (enterFree k s).resetLow = s.resetLow := rfl
@[simp] theorem enterFree_tickCounter (k : ApId) (s : State) : (enterFree k s).tickCounter = s.tickCounter := rfl
@[simp] theorem enterFree_jobs (k : ApId) (s : State) : (enterFree k s).jobs = s.jobs := rfl
@[simp] theorem enterFree_validation (k : ApId) (s : State) : (enterFree k s).validation = s.validation := rfl
@[simp] theorem enterFree_cache (k : ApId) (s : State) : (enterFree k s).cache = s.cache := rfl
@[simp] theorem enterFree_missQueue (k : ApId) (s : State) : (enterFree k s).missQueue = s.missQueue := rfl
@[simp] theorem enterFree_unqueued (k : ApId) (s : State) : (enterFree k s).unqueued = s.unqueued := rfl
@[simp] theorem enterFree_postQueue (k : ApId) (s : State) : (enterFree k s).postQueue = s.postQueue := rfl
@[simp] theorem enterFree_slots (k : ApId) (s : State) : (enterFree k s).slots = s.slots := rfl
@[simp] theorem enterFree_requesters (k : ApId) (s : State) : (enterFree k s).requesters = s.requesters := rfl
@[simp] theorem enterFree_tags (k : ApId) (s : State) : (enterFree k s).tags = s.tags := rfl
@[simp] theorem enterFree_parked (k : ApId) (s : State) : (enterFree k s).parked = s.parked := rfl
@[simp] theorem enterFree_lastGrant (k : ApId) (s : State) : (enterFree k s).lastGrant = s.lastGrant := rfl
@[simp] theorem enterFree_settings (k : ApId) (s : State) : (enterFree k s).settings = s.settings := rfl
@[simp] theorem enterFree_reports (k : ApId) (s : State) : (enterFree k s).reports = s.reports := rfl
@[simp] theorem enterFree_dropped (k : ApId) (s : State) : (enterFree k s).dropped = s.dropped := rfl
@[simp] theorem enterFree_quiescing (k : ApId) (s : State) : (enterFree k s).quiescing = s.quiescing := rfl
@[simp] theorem enterFree_response (k : ApId) (s : State) : (enterFree k s).response = s.response := rfl
@[simp] theorem enterFree_out (k : ApId) (s : State) : (enterFree k s).out = s.out := rfl
@[simp] theorem enterFree_nextAge (k : ApId) (s : State) : (enterFree k s).nextAge = s.nextAge := rfl
@[simp] theorem enterFree_choices (k : ApId) (s : State) : (enterFree k s).choices = s.choices := rfl

/-! ### answer -/

@[simp] theorem answer_pending (v : Byte) (a : Answer) (bs : List Byte) (s : State) : (answer v a bs s).pending = s.pending := rfl
@[simp] theorem answer_resetLow (v : Byte) (a : Answer) (bs : List Byte) (s : State) : (answer v a bs s).resetLow = s.resetLow := rfl
@[simp] theorem answer_tickCounter (v : Byte) (a : Answer) (bs : List Byte) (s : State) : (answer v a bs s).tickCounter = s.tickCounter := rfl
@[simp] theorem answer_apertures (v : Byte) (a : Answer) (bs : List Byte) (s : State) : (answer v a bs s).apertures = s.apertures := rfl
@[simp] theorem answer_checkpoints (v : Byte) (a : Answer) (bs : List Byte) (s : State) : (answer v a bs s).checkpoints = s.checkpoints := rfl
@[simp] theorem answer_jobs (v : Byte) (a : Answer) (bs : List Byte) (s : State) : (answer v a bs s).jobs = s.jobs := rfl
@[simp] theorem answer_validation (v : Byte) (a : Answer) (bs : List Byte) (s : State) : (answer v a bs s).validation = s.validation := rfl
@[simp] theorem answer_cache (v : Byte) (a : Answer) (bs : List Byte) (s : State) : (answer v a bs s).cache = s.cache := rfl
@[simp] theorem answer_missQueue (v : Byte) (a : Answer) (bs : List Byte) (s : State) : (answer v a bs s).missQueue = s.missQueue := rfl
@[simp] theorem answer_unqueued (v : Byte) (a : Answer) (bs : List Byte) (s : State) : (answer v a bs s).unqueued = s.unqueued := rfl
@[simp] theorem answer_postQueue (v : Byte) (a : Answer) (bs : List Byte) (s : State) : (answer v a bs s).postQueue = s.postQueue := rfl
@[simp] theorem answer_slots (v : Byte) (a : Answer) (bs : List Byte) (s : State) : (answer v a bs s).slots = s.slots := rfl
@[simp] theorem answer_requesters (v : Byte) (a : Answer) (bs : List Byte) (s : State) : (answer v a bs s).requesters = s.requesters := rfl
@[simp] theorem answer_tags (v : Byte) (a : Answer) (bs : List Byte) (s : State) : (answer v a bs s).tags = s.tags := rfl
@[simp] theorem answer_parked (v : Byte) (a : Answer) (bs : List Byte) (s : State) : (answer v a bs s).parked = s.parked := rfl
@[simp] theorem answer_lastGrant (v : Byte) (a : Answer) (bs : List Byte) (s : State) : (answer v a bs s).lastGrant = s.lastGrant := rfl
@[simp] theorem answer_settings (v : Byte) (a : Answer) (bs : List Byte) (s : State) : (answer v a bs s).settings = s.settings := rfl
@[simp] theorem answer_reports (v : Byte) (a : Answer) (bs : List Byte) (s : State) : (answer v a bs s).reports = s.reports := rfl
@[simp] theorem answer_dropped (v : Byte) (a : Answer) (bs : List Byte) (s : State) : (answer v a bs s).dropped = s.dropped := rfl
@[simp] theorem answer_quiescing (v : Byte) (a : Answer) (bs : List Byte) (s : State) : (answer v a bs s).quiescing = s.quiescing := rfl
@[simp] theorem answer_out (v : Byte) (a : Answer) (bs : List Byte) (s : State) : (answer v a bs s).out = s.out := rfl
@[simp] theorem answer_nextAge (v : Byte) (a : Answer) (bs : List Byte) (s : State) : (answer v a bs s).nextAge = s.nextAge := rfl
@[simp] theorem answer_choices (v : Byte) (a : Answer) (bs : List Byte) (s : State) : (answer v a bs s).choices = s.choices := rfl

/-! ### answerOk -/

@[simp] theorem answerOk_pending (v : Byte) (s : State) : (answerOk v s).pending = s.pending := rfl
@[simp] theorem answerOk_resetLow (v : Byte) (s : State) : (answerOk v s).resetLow = s.resetLow := rfl
@[simp] theorem answerOk_tickCounter (v : Byte) (s : State) : (answerOk v s).tickCounter = s.tickCounter := rfl
@[simp] theorem answerOk_apertures (v : Byte) (s : State) : (answerOk v s).apertures = s.apertures := rfl
@[simp] theorem answerOk_checkpoints (v : Byte) (s : State) : (answerOk v s).checkpoints = s.checkpoints := rfl
@[simp] theorem answerOk_jobs (v : Byte) (s : State) : (answerOk v s).jobs = s.jobs := rfl
@[simp] theorem answerOk_validation (v : Byte) (s : State) : (answerOk v s).validation = s.validation := rfl
@[simp] theorem answerOk_cache (v : Byte) (s : State) : (answerOk v s).cache = s.cache := rfl
@[simp] theorem answerOk_missQueue (v : Byte) (s : State) : (answerOk v s).missQueue = s.missQueue := rfl
@[simp] theorem answerOk_unqueued (v : Byte) (s : State) : (answerOk v s).unqueued = s.unqueued := rfl
@[simp] theorem answerOk_postQueue (v : Byte) (s : State) : (answerOk v s).postQueue = s.postQueue := rfl
@[simp] theorem answerOk_slots (v : Byte) (s : State) : (answerOk v s).slots = s.slots := rfl
@[simp] theorem answerOk_requesters (v : Byte) (s : State) : (answerOk v s).requesters = s.requesters := rfl
@[simp] theorem answerOk_tags (v : Byte) (s : State) : (answerOk v s).tags = s.tags := rfl
@[simp] theorem answerOk_parked (v : Byte) (s : State) : (answerOk v s).parked = s.parked := rfl
@[simp] theorem answerOk_lastGrant (v : Byte) (s : State) : (answerOk v s).lastGrant = s.lastGrant := rfl
@[simp] theorem answerOk_settings (v : Byte) (s : State) : (answerOk v s).settings = s.settings := rfl
@[simp] theorem answerOk_reports (v : Byte) (s : State) : (answerOk v s).reports = s.reports := rfl
@[simp] theorem answerOk_dropped (v : Byte) (s : State) : (answerOk v s).dropped = s.dropped := rfl
@[simp] theorem answerOk_quiescing (v : Byte) (s : State) : (answerOk v s).quiescing = s.quiescing := rfl
@[simp] theorem answerOk_out (v : Byte) (s : State) : (answerOk v s).out = s.out := rfl
@[simp] theorem answerOk_nextAge (v : Byte) (s : State) : (answerOk v s).nextAge = s.nextAge := rfl
@[simp] theorem answerOk_choices (v : Byte) (s : State) : (answerOk v s).choices = s.choices := rfl

/-! ### driveFrame -/

@[simp] theorem driveFrame_pending (n : Nat) (s : State) : (driveFrame n s).pending = s.pending := rfl
@[simp] theorem driveFrame_resetLow (n : Nat) (s : State) : (driveFrame n s).resetLow = s.resetLow := rfl
@[simp] theorem driveFrame_tickCounter (n : Nat) (s : State) : (driveFrame n s).tickCounter = s.tickCounter := rfl
@[simp] theorem driveFrame_apertures (n : Nat) (s : State) : (driveFrame n s).apertures = s.apertures := rfl
@[simp] theorem driveFrame_checkpoints (n : Nat) (s : State) : (driveFrame n s).checkpoints = s.checkpoints := rfl
@[simp] theorem driveFrame_jobs (n : Nat) (s : State) : (driveFrame n s).jobs = s.jobs := rfl
@[simp] theorem driveFrame_validation (n : Nat) (s : State) : (driveFrame n s).validation = s.validation := rfl
@[simp] theorem driveFrame_cache (n : Nat) (s : State) : (driveFrame n s).cache = s.cache := rfl
@[simp] theorem driveFrame_missQueue (n : Nat) (s : State) : (driveFrame n s).missQueue = s.missQueue := rfl
@[simp] theorem driveFrame_unqueued (n : Nat) (s : State) : (driveFrame n s).unqueued = s.unqueued := rfl
@[simp] theorem driveFrame_postQueue (n : Nat) (s : State) : (driveFrame n s).postQueue = s.postQueue := rfl
@[simp] theorem driveFrame_slots (n : Nat) (s : State) : (driveFrame n s).slots = s.slots := rfl
@[simp] theorem driveFrame_requesters (n : Nat) (s : State) : (driveFrame n s).requesters = s.requesters := rfl
@[simp] theorem driveFrame_tags (n : Nat) (s : State) : (driveFrame n s).tags = s.tags := rfl
@[simp] theorem driveFrame_parked (n : Nat) (s : State) : (driveFrame n s).parked = s.parked := rfl
@[simp] theorem driveFrame_lastGrant (n : Nat) (s : State) : (driveFrame n s).lastGrant = s.lastGrant := rfl
@[simp] theorem driveFrame_settings (n : Nat) (s : State) : (driveFrame n s).settings = s.settings := rfl
@[simp] theorem driveFrame_reports (n : Nat) (s : State) : (driveFrame n s).reports = s.reports := rfl
@[simp] theorem driveFrame_dropped (n : Nat) (s : State) : (driveFrame n s).dropped = s.dropped := rfl
@[simp] theorem driveFrame_quiescing (n : Nat) (s : State) : (driveFrame n s).quiescing = s.quiescing := rfl
@[simp] theorem driveFrame_response (n : Nat) (s : State) : (driveFrame n s).response = s.response := rfl
@[simp] theorem driveFrame_nextAge (n : Nat) (s : State) : (driveFrame n s).nextAge = s.nextAge := rfl
@[simp] theorem driveFrame_choices (n : Nat) (s : State) : (driveFrame n s).choices = s.choices := rfl

end Sys2Proof.Machine
end

