-- ==== Sys2Proof/Laws/Change.lean ====
section
/-! SUPPORT. What an event can do to the state, said once. `Change` lists the single changes, at three levels: those
that the translation, failing and leaving of owners bring; those that walks, jobs, tags and the soft reset bring as well;
and those that a command, a presentation or the time base makes directly. `Changes` chains them. Every operation of the
machine is a chain of changes (Laws/Traffic.lean, Laws/Commands.lean), so an invariant is proved by cases on `Change`,
once. -/

namespace Sys2Proof.Machine

/-! ### Records -/

/-- What no event but LOAD, SET_ACCESS, an opening, a leaving and the entry to FREE changes of an aperture record. -/
structure ApWindow (a b : Aperture) : Prop where
  base : b.windowBase = a.windowBase
  size : b.windowSize = a.windowSize
  read : b.readAllowed = a.readAllowed
  write : b.writeAllowed = a.writeAllowed
  mask : b.mask = a.mask
  inFlight : b.inFlight = a.inFlight
  faults : b.faultCount ≤ max 255 a.faultCount

/-- A change of an aperture record that leaves its state and pending list. -/
def ApKeeps (a b : Aperture) : Prop := ApWindow a b ∧ b.state = a.state ∧ b.pendingList = a.pendingList

/-- The end of settling (R17). -/
def ApSettles (a b : Aperture) : Prop :=
  ApWindow a b ∧ a.state = .rebinding .settling ∧ b.state = .active ∧ b.pendingList = a.pendingList

/-- A transition of an aperture that the end of a job or of a walk may bring (R13, R15, R16, R19). -/
def ApMoves (a b : Aperture) : Prop :=
  ApWindow a b ∧
  ((a.state = .loading ∧ b.state = .active ∧ b.pendingList = a.pendingList) ∨
   (a.state = .rebinding .validating ∧ b.state = .active ∧ b.pendingList = none) ∨
   (a.state = .rebinding .validating ∧ b.state = .rebinding .settling ∧ b.pendingList = none) ∨
   (a.state.serves = true ∧ b.state = .faulted ∧ b.pendingList = none))

/-- What no event changes of a post entry while it is queued (R90). -/
structure EntryKeeps (e f : PostEntry) : Prop where
  requester : f.core.requester = e.core.requester
  sequence : f.sequence = e.sequence
  place : f.core.place = e.core.place
  address : f.core.address = e.core.address
  length : f.core.length = e.core.length
  age : f.core.age = e.core.age
  data : f.data = e.data

/-- What no event changes of a slot while it is occupied (R113), and the fence met field, which stays yes (R112). -/
structure SlotKeeps (c d : Slot) : Prop where
  requester : d.core.requester = c.core.requester
  place : d.core.place = c.core.place
  address : d.core.address = c.core.address
  length : d.core.length = c.core.length
  age : d.core.age = c.core.age
  fence : d.fence = c.fence
  met : c.fenceMet = true → d.fenceMet = true

/-- A slot keeps its occupant, or stays EMPTY. -/
def SlotStays : Option Slot → Option Slot → Prop
  | none, y => y = none
  | some c, y => ∃ d, y = some d ∧ SlotKeeps c d

/-- The first three steps of a leaving (R100): the entry goes, its requester's record and its aperture's count follow. -/
def removeEntry (e : PostEntry) (s : State) : State :=
  lowerInFlight e.core.place
    (updReq e.core.requester (fun q =>
      { q.markAt e.sequence with completed := e.sequence, queuedWrites := q.queuedWrites - 1 })
      (setPostQueue (s.postQueue.filter fun x => !(x.named e.core.requester e.sequence)) s))

/-- The counts of a freeing (R111): the slot is EMPTY, its requester's and its aperture's counts follow. -/
def removeSlot (n : SlotId) (c : Slot) (s : State) : State :=
  lowerInFlight c.core.place
    (updReq c.core.requester (fun q => { q with openSlots := q.openSlots - 1 }) (setSlot n none s))

/-- The counts of an opening (R113). -/
def addSlot (n : SlotId) (c : Slot) (s : State) : State :=
  raiseInFlight c.core.place
    (updReq c.core.requester (fun q => { q with openSlots := q.openSlots + 1 })
      (setSlot n (some c) { s with nextAge := s.nextAge + 1 }))

/-- The settings of R153 lie in their ranges. -/
def Settings.inRange (g : Settings) : Prop :=
  g.retryBudget ≤ 63 ∧ 1 ≤ g.responseLimit ∧ g.responseLimit ≤ 255 ∧ 1 ≤ g.discardInterval ∧ g.discardInterval ≤ 255

/-- A requester record whose counts and sequences stand (R129, R133, R134, R86). -/
structure ReqCounts (p q : Requester) : Prop where
  taken : q.taken = p.taken
  completed : q.completed = p.completed
  queued : q.queuedWrites = p.queuedWrites
  slots : q.openSlots = p.openSlots
  refused : q.refusedCount ≤ max 65535 p.refusedCount
  limits : (q.postedLimit = p.postedLimit ∧ q.slotLimit = p.slotLimit) ∨
    (1 ≤ q.postedLimit ∧ q.postedLimit ≤ 16 ∧ 1 ≤ q.slotLimit ∧ q.slotLimit ≤ 4)

/-- An owner's aperture is one that new owners may be attributed to (R80). -/
def placeServes (p : Option Place) (s : State) : Prop := ∀ x, p = some x → (s.ap x.aperture).state.serves = true

/-! ### The changes -/

/-- The levels of changes: of owners, of any event, of a command. -/
inductive Level where
  | owner | event | command
  deriving DecidableEq, Repr

/-- One change of the state. -/
inductive Change : Level → State → State → Prop
  | ap {l s} (k : ApId) (a : Aperture) (h : ApKeeps (s.ap k) a ∨ ApSettles (s.ap k) a) : Change l s (setAp k a s)
  | apMove {l s} (hl : l ≠ .owner) (k : ApId) (a : Aperture) (h : ApMoves (s.ap k) a) : Change l s (setAp k a s)
  | places {l s} (hl : l ≠ .owner) (k : ApId) (p : Checkpoints) : Change l s (setPlaces k p s)
  | drain {l s} (k : ApId) (h : (s.ap k).state = .draining) (hn : (s.ap k).inFlight = 0) : Change l s (enterFree k s)
  | unload {l s} (hl : l ≠ .owner) (k : ApId) (h : (s.ap k).state = .loading) : Change l s (enterFree k s)
  | jobs {l s} (hl : l ≠ .owner) (js : List Job) (h : js.length ≤ s.jobs.length) : Change l s { s with jobs := js }
  | validation {l s} (hl : l ≠ .owner) (v : Option Validation) : Change l s { s with validation := v }
  | cached {l s} (hl : l ≠ .owner) (i : Fin 32) (e : CacheEntry) (h : e.rank = (s.cached i).rank) : Change l s (setCached i e s)
  | touch {l s} (i : Fin 32) : Change l s (touch i s)
  | invalidate {l s} (p : CacheEntry → Bool) : Change l s (invalidateWhere p s)
  | misses {l s} (q : List WalkRequest) (h : q.length ≤ max 8 s.missQueue.length) :
      Change l s { s with missQueue := q }
  | unqueued {l s} (u : List Unqueued) : Change l s { s with unqueued := u }
  | entries {l s} (f : PostEntry → PostEntry) (h : ∀ e ∈ s.postQueue, EntryKeeps e (f e)) :
      Change l s (setPostQueue (s.postQueue.map f) s)
  | leaving {l s} (e : PostEntry) (h : head e.core.requester s = some e) : Change l s (removeEntry e s)
  | slots {l s} (v : Vector (Option Slot) 8) (h : ∀ n : SlotId, SlotStays (s.slot n) v[n.val]) :
      Change l s { s with slots := v }
  | loss {l s} (r : ReqId) : Change l s (updReq r (fun q => { q with lossFlag := true }) s)
  | issue {l s} (hl : l ≠ .owner) (t : TagId) (op : Op) (hc : op.cls = tagClass t) (ho : op.classed) :
      Change l s (issue t op s)
  | reissue {l s} (hl : l ≠ .owner) (t : TagId) (o : OpName) (op : Op) (hc : nameClass o = tagClass t)
      (hw : waitingOp o s = some op) : Change l s (Machine.issue t op (unpark o s))
  | freeTag {l s} (hl : l ≠ .owner) (t : TagId) : Change l s (setTag t .free s)
  | quarantine {l s} (hl : l ≠ .owner) (t : TagId) (f : ReportFields) : Change l s (setTag t (.quarantined f) s)
  | cancel {l s} (p : OpName → Bool) (g : Bool) : Change l s (cancelOps p g s)
  | backoff {l s} (hl : l ≠ .owner) (t : TagId) (op op' : Op) (h : s.tag t = .outstanding op) (hc : op'.cls = op.cls)
      (ho : op'.owner = op.owner) : Change l s (park op' (setTag t .free s))
  | granted {l s} (hl : l ≠ .owner) (g : GrantKind) : Change l s { s with lastGrant := g }
  | post {l s} (p : Report) : Change l s (post p s)
  | softReset {l s} (hl : l ≠ .owner) (h : s.quiescing = true) : Change l s (softReset s)
  | out {s} (o : Outputs) : Change .command s { s with out := o }
  | response {s} (x : Option Response) : Change .command s { s with response := x }
  | settings {s} (g : Settings) (h : g.inRange) : Change .command s { s with settings := g }
  | quiesce {s} : Change .command s { s with quiescing := true, apertures := s.apertures.map Aperture.quiesce }
  | forget {s} : Change .command s { s with apertures := s.apertures.map fun a => { a with resume := none } }
  | clearDropped {s} : Change .command s { s with dropped := 0 }
  | pop {s} : Change .command s { s with reports := s.reports.tail }
  | clock {s} (n : Nat) (l : Bool) : Change .command s { s with tickCounter := n, resetLow := l }
  | choices {l s} (n : Nat) : Change l s { s with choices := n }
  | timers {s} : Change .command s (lowerTimers s)
  | backoffs {s} (f : Parked → Parked) (h : ∀ p ∈ s.parked, (f p).op = p.op) :
      Change .command s { s with parked := s.parked.map f }
  | take {s} (e : PostEntry) (hn : s.postQueue.length < 16)
      (hs : e.sequence = (s.req e.core.requester).taken + 1) (hp : placeServes e.core.place s) :
      Change .command s (createEntry e s)
  | opening {s} (n : SlotId) (c : Slot) (hn : s.slot n = none)
      (hk : ∀ m d, s.slot m = some d → d.core.requester = c.core.requester → d.core.address = c.core.address →
        d.core.length = c.core.length → False)
      (hp : placeServes c.core.place s) : Change .command s (addSlot n c s)
  | freeing {s} (n : SlotId) (c : Slot) (h : s.slot n = some c) : Change .command s (removeSlot n c s)
  | load {s} (k : ApId) (l : LoadArgs) (hf : (s.ap k).state = .free) (hw : windowTaken l.base l.size s = false) :
      Change .command s (setAp k (Aperture.loaded l) s)
  | rebind {s} (k : ApId) (l : ListRef) (h : (s.ap k).state = .active) :
      Change .command s (updAp k (fun a => { a with state := .rebinding .validating, pendingList := some l }) s)
  | retire {s} (k : ApId) (h : (s.ap k).state.serves = true ∨ (s.ap k).state = .faulted) :
      Change .command s (updAp k (fun a => { a with state := .draining, pendingList := none, settling := 0 }) s)
  | access {s} (k : ApId) (bs : List Byte) : Change .command s (updAp k (·.setAccess bs) s)
  | join {s} (k : ApId) (p : Purpose) (l : ListRef) (h : s.jobs.length < 4) : Change .command s (joinJob k p l s)
  | req {s} (r : ReqId) (q : Requester) (h : ReqCounts (s.req r) q) : Change .command s (setReq r q s)
  | hardReset {s} : Change .command s (takeReset s)

/-- A chain of changes. -/
abbrev Changes (l : Level) : State → State → Prop := Relation.ReflTransGen (Change l)

/-- A change of any level is one of the widest. -/
theorem Change.toCommand {l : Level} {s t : State} (h : Change l s t) : Change .command s t :=
  match h with
  | .ap k a h => .ap k a h
  | .apMove _ k a h => .apMove (by decide) k a h
  | .places _ k p => .places (by decide) k p
  | .drain k h hn => .drain k h hn
  | .unload _ k h => .unload (by decide) k h
  | .jobs _ js h => .jobs (by decide) js h
  | .validation _ v => .validation (by decide) v
  | .cached _ i e h => .cached (by decide) i e h
  | .touch i => .touch i
  | .invalidate p => .invalidate p
  | .misses q h => .misses q h
  | .unqueued u => .unqueued u
  | .entries f h => .entries f h
  | .leaving e h => .leaving e h
  | .slots v h => .slots v h
  | .loss r => .loss r
  | .issue _ t op hc ho => .issue (by decide) t op hc ho
  | .reissue _ t o op hc hw => .reissue (by decide) t o op hc hw
  | .freeTag _ t => .freeTag (by decide) t
  | .quarantine _ t f => .quarantine (by decide) t f
  | .cancel p g => .cancel p g
  | .backoff _ t op op' h hc ho => .backoff (by decide) t op op' h hc ho
  | .granted _ g => .granted (by decide) g
  | .post p => .post p
  | .softReset _ h => .softReset (by decide) h
  | .out o => .out o
  | .response x => .response x
  | .settings g h => .settings g h
  | .quiesce => .quiesce
  | .forget => .forget
  | .clearDropped => .clearDropped
  | .pop => .pop
  | .clock n l => .clock n l
  | .choices n => .choices n
  | .timers => .timers
  | .backoffs f h => .backoffs f h
  | .take e hn hs hp => .take e hn hs hp
  | .opening n c hn hk hp => .opening n c hn hk hp
  | .freeing n c h => .freeing n c h
  | .load k l hf hw => .load k l hf hw
  | .rebind k l h => .rebind k l h
  | .retire k h => .retire k h
  | .access k bs => .access k bs
  | .join k p l h => .join k p l h
  | .req r q h => .req r q h
  | .hardReset => .hardReset

theorem Changes.toCommand {l : Level} {s t : State} (h : Changes l s t) : Changes .command s t := by
  induction h with
  | refl => exact .refl
  | tail _ h ih => exact ih.tail h.toCommand

end Sys2Proof.Machine
end

