-- ==== Sys2Proof/Laws/Traffic.lean ====
section
/-! SUPPORT. Every operation that events share is a chain of changes: one lemma for each, over any state. -/

namespace Sys2Proof.Machine

variable {l : Level}

/-! ### Records of owners -/

theorem EntryKeeps.refl (e : PostEntry) : EntryKeeps e e := ⟨by rfl, by rfl, by rfl, by rfl, by rfl, by rfl, by rfl⟩

theorem SlotKeeps.refl (c : Slot) : SlotKeeps c c := ⟨by rfl, by rfl, by rfl, by rfl, by rfl, by rfl, id⟩

theorem SlotStays.refl (x : Option Slot) : SlotStays x x := by
  cases x with
  | none => exact Eq.refl none
  | some c => exact ⟨c, Eq.refl _, SlotKeeps.refl c⟩

/-- A change of the common part of an owner that keeps what an owner is created with. -/
structure CoreKeeps (f : OwnerCore → OwnerCore) : Prop where
  requester : ∀ c, (f c).requester = c.requester
  place : ∀ c, (f c).place = c.place
  address : ∀ c, (f c).address = c.address
  length : ∀ c, (f c).length = c.length
  age : ∀ c, (f c).age = c.age

theorem setPostQueue_changes (f : PostEntry → PostEntry) (h : ∀ e, EntryKeeps e (f e)) (s : State) :
    Changes l s (setPostQueue (s.postQueue.map f) s) := .single (.entries f fun e _ => h e)

theorem updEntry_changes (r : ReqId) (q : Seq) (f : PostEntry → PostEntry)
    (h : ∀ e, e.named r q = true → EntryKeeps e (f e)) (s : State) : Changes l s (updEntry r q f s) := by
  apply setPostQueue_changes
  intro e
  by_cases hn : e.named r q = true
  · simpa [hn] using h e hn
  · simpa [hn] using EntryKeeps.refl e

theorem setSlot_changes (n : SlotId) (x : Option Slot) (s : State) (h : SlotStays (s.slot n) x) :
    Changes l s (setSlot n x s) := by
  refine .single (.slots _ ?_)
  intro m
  have hx : (s.slots.set n.val x n.isLt)[m.val] = if m = n then x else s.slot m := setSlot_slot n m x s
  rw [hx]
  by_cases hm : m = n
  · subst hm; rw [if_pos rfl]; exact h
  · rw [if_neg hm]; exact SlotStays.refl (s.slot m)

theorem updSlot_changes (n : SlotId) (f : Slot → Slot) (h : ∀ c, s.slot n = some c → SlotKeeps c (f c)) :
    Changes l s (updSlot n f s) := by
  apply setSlot_changes
  cases hc : s.slot n with
  | none => exact Eq.refl none
  | some c => exact ⟨f c, by simp, h c hc⟩

theorem updCore_changes (o : OwnerRef) (f : OwnerCore → OwnerCore) (h : CoreKeeps f) (s : State) :
    Changes l s (updCore o f s) := by
  cases o with
  | entry r q =>
    exact updEntry_changes r q _ (fun e _ =>
      ⟨h.requester _, by rfl, h.place _, h.address _, h.length _, h.age _, by rfl⟩) s
  | slot n =>
    exact updSlot_changes n _ fun c _ =>
      ⟨h.requester _, h.place _, h.address _, h.length _, h.age _, by rfl, id⟩

theorem updPiece_changes (o : OwnerRef) (i : Nat) (f : Piece → Piece) (s : State) :
    Changes l s (updPiece o i f s) := by
  refine updCore_changes o _ ?_ s
  constructor <;> intro c <;> rfl

theorem setWaiting_changes (o : OwnerRef) (w : Waiting) (s : State) : Changes l s (setWaiting o w s) := by
  refine updCore_changes o _ ?_ s
  constructor <;> intro c <;> rfl

theorem detach_changes (o : OwnerRef) (s : State) : Changes l s (detach o s) := by
  have h : Changes l s { s with missQueue := (detach o s).missQueue } := by
    refine .single (.misses _ ?_)
    exact le_trans (List.length_filter_le _ _) (by simp)
  exact h.tail (.unqueued (detach o s).unqueued)

/-! ### The aperture table -/

theorem ApWindow.refl (a : Aperture) : ApWindow a a :=
  ⟨by rfl, by rfl, by rfl, by rfl, by rfl, by rfl, by simp⟩

theorem addFault_changes (p : Option Place) (s : State) : Changes l s (addFault p s) := by
  cases p with
  | none => exact .refl
  | some x =>
    refine .single (.ap _ _ (.inl ⟨⟨by rfl, by rfl, by rfl, by rfl, by rfl, by rfl, ?_⟩, by rfl, by rfl⟩))
    exact le_trans (Nat.min_le_left _ _) (le_max_left _ _)

theorem settleTest_changes (k : ApId) (s : State) : Changes l s (settleTest k s) := by
  unfold settleTest
  split
  · rename_i h
    simp only [settled, Bool.and_eq_true, beq_iff_eq] at h
    refine .tail (.single (.ap _ _ (.inr ⟨⟨by rfl, by rfl, by rfl, by rfl, by rfl, by rfl, by simp⟩, h.1, by rfl, by rfl⟩)))
      (.post _)
  · exact .refl

theorem uncount_changes (k : ApId) (s : State) : Changes l s (uncount k s) :=
  .trans (.single (.ap _ _ (.inl ⟨⟨by rfl, by rfl, by rfl, by rfl, by rfl, by rfl, by simp⟩, by rfl, by rfl⟩)))
    (settleTest_changes k _)

theorem uncountIf_changes (m : Bool) (p : Option Place) (s : State) : Changes l s (uncountIf m p s) := by
  unfold uncountIf
  split
  · split
    · exact uncount_changes _ _
    · exact .refl
  · exact .refl

theorem drainTest_changes (k : ApId) (s : State) : Changes l s (drainTest k s) := by
  unfold drainTest
  split
  · rename_i h
    simp only [drained, Bool.and_eq_true, beq_iff_eq] at h
    refine .tail (.tail (.single (.invalidate _)) (.drain k h.1.1 h.1.2)) (.post _)
  · exact .refl

theorem drainTestOf_changes (p : Option Place) (s : State) : Changes l s (drainTestOf p s) := by
  unfold drainTestOf
  split
  · exact drainTest_changes _ _
  · exact .refl

/-! ### Slots -/

theorem becomeReady_changes (n : SlotId) (s : State) : Changes l s (becomeReady n s) := by
  unfold becomeReady
  split
  · rename_i c hc
    split
    · exact setSlot_changes n _ s (hc ▸ ⟨_, rfl, ⟨rfl, rfl, rfl, rfl, rfl, rfl, id⟩⟩)
    · exact .refl
  · exact .refl

theorem startReading_changes (n : SlotId) (s : State) : Changes l s (startReading n s) := by
  unfold startReading
  split
  · rename_i c hc
    split
    · exact .trans (setSlot_changes n _ s (hc ▸ ⟨_, rfl, ⟨rfl, rfl, rfl, rfl, rfl, rfl, id⟩⟩))
        (becomeReady_changes n _)
    · exact .refl
  · exact .refl

theorem slotUncount_changes (n : SlotId) (s : State) : Changes l s (slotUncount n s) := by
  unfold slotUncount
  split
  · rename_i c hc
    split
    · exact .trans (setSlot_changes n _ s (hc ▸ ⟨_, rfl, ⟨rfl, rfl, rfl, rfl, rfl, rfl, id⟩⟩))
        (uncountIf_changes _ _ _)
    · exact .refl
  · exact .refl

theorem meetFence_changes (n : SlotId) (s : State) : Changes l s (meetFence n s) := by
  refine .trans (updSlot_changes n _ ?_) (startReading_changes n _)
  intro c _
  exact ⟨rfl, rfl, rfl, rfl, rfl, rfl, fun _ => rfl⟩

/-- A fold of steps, each a chain of changes, is a chain of changes. -/
theorem foldl_changes {α : Type} (f : State → α → State) (h : ∀ s x, Changes l s (f s x)) (xs : List α) (s : State) :
    Changes l s (xs.foldl f s) := by
  induction xs generalizing s with
  | nil => exact .refl
  | cons x xs ih => exact .trans (h s x) (ih _)

theorem tellFences_changes (r : ReqId) (s : State) : Changes l s (tellFences r s) := by
  apply foldl_changes
  intro s n
  split
  · split
    · exact meetFence_changes n s
    · exact .refl
  · exact .refl

/-! ### Failure -/

theorem failCore_changes (o : OwnerRef) (f : Failure) (s : State) : Changes l s (failCore o f s) := by
  refine .tail (updCore_changes o _ ?_ s) (.cancel _ _)
  constructor <;> intro c <;> rfl

theorem failOwner_changes (o : OwnerRef) (f : Failure) (s : State) : Changes l s (failOwner o f s) := by
  cases o with
  | entry r q =>
    refine .trans (failCore_changes (.entry r q) f s) (updEntry_changes r q _ ?_ _)
    intro e _
    exact ⟨rfl, rfl, rfl, rfl, rfl, rfl, rfl⟩
  | slot n =>
    simp only [failOwner]
    split
    · exact .refl
    · rename_i c hc
      refine .trans ?_ (slotUncount_changes n _)
      refine .trans ?_ (addFault_changes _ _)
      refine .tail ?_ (.post _)
      refine .trans ?_ (updSlot_changes n _ ?_)
      · exact failCore_changes (.slot n) f s
      · intro d _
        exact ⟨rfl, rfl, rfl, rfl, rfl, rfl, id⟩

theorem failTranslation_changes (o : OwnerRef) (f : Failure) (s : State) : Changes l s (failTranslation o f s) :=
  .trans (detach_changes o s) (failOwner_changes o f _)

/-! ### Post entries -/

theorem PostEntry.eligible_keeps (e : PostEntry) : EntryKeeps e e.eligible := by
  unfold PostEntry.eligible
  simp only []
  split <;> exact ⟨rfl, rfl, rfl, rfl, rfl, rfl, rfl⟩

/-- The head of a requester carries its number. -/
theorem head_requester {r : ReqId} {s : State} {e : PostEntry} (h : head r s = some e) : e.core.requester = r := by
  have := List.find?_some h
  simpa using this

theorem makeEligible_changes (r : ReqId) (s : State) : Changes l s (makeEligible r s) := by
  unfold makeEligible
  split
  · rename_i e he
    split
    · exact updEntry_changes r _ _ (fun e _ => e.eligible_keeps) s
    · exact .refl
  · exact .refl

theorem recordLoss_changes (e : PostEntry) (s : State) : Changes l s (recordLoss e s) := by
  unfold recordLoss
  split
  · refine .tail ?_ (.post _)
    refine .trans ?_ (addFault_changes _ _)
    exact .single (.loss _)
  · exact .refl

theorem leave_changes (e : PostEntry) (s : State) (h : head e.core.requester s = some e) :
    Changes l s (leave e s) := by
  simp only [leave]
  refine .trans ?_ (drainTestOf_changes _ _)
  refine .trans ?_ (tellFences_changes _ _)
  refine .trans ?_ (recordLoss_changes _ _)
  refine .trans ?_ (uncountIf_changes _ _ _)
  exact .single (.leaving e h)

theorem leaveHead_changes (r : ReqId) (s : State) : Changes l s (leaveHead r s) := by
  simp only [leaveHead]
  refine .trans (makeEligible_changes r s) ?_
  split
  · rename_i e he
    split
    · exact leave_changes e _ (head_requester he ▸ he)
    · exact .refl
  · exact .refl

theorem leaveCascade_changes (n : Nat) (r : ReqId) (s : State) : Changes l s (leaveCascade n r s) := by
  induction n generalizing s with
  | zero => exact .refl
  | succ n ih =>
    simp only [leaveCascade]
    refine .trans (makeEligible_changes r s) ?_
    split
    · rename_i e he
      split
      · exact .trans (leave_changes e _ (head_requester he ▸ he)) (ih _)
      · exact .refl
    · exact .refl

theorem leaveAll_changes (r : ReqId) (s : State) : Changes l s (leaveAll r s) := leaveCascade_changes _ r s

theorem leaveTurn_changes (o : OwnerRef) (s : State) : Changes l s (leaveTurn o s) := by
  cases o with
  | slot n => exact .refl
  | entry r q =>
    simp only [leaveTurn]
    split
    · split
      · exact leaveHead_changes r s
      · exact .refl
    · exact .refl

theorem sweep_changes (act : OwnerRef → State → State) (h : ∀ o s, Changes l s (act o s)) (s : State) :
    Changes l s (sweep act s) := by
  apply foldl_changes
  intro s o
  exact .trans (h o s) (leaveTurn_changes o _)

/-! ### Translation -/

theorem updFirst_length {α : Type} (p : α → Bool) (f : α → α) (xs : List α) :
    (updFirst p f xs).length = xs.length := by
  induction xs with
  | nil => rfl
  | cons x xs ih => simp only [updFirst]; split <;> simp [ih]

theorem offer_changes (o : OwnerRef) (i : Nat) (k : ApId) (g : Gen) (off : Nat) (s : State) :
    Changes l s (offer o i k g off s) := by
  unfold offer
  split
  · refine .trans ?_ (setWaiting_changes _ _ _)
    exact .single (.misses _ (by simp [updFirst_length]))
  · split
    · refine .trans ?_ (setWaiting_changes _ _ _)
      refine .single (.misses _ ?_)
      simp only [List.length_append, List.length_singleton]
      omega
    · refine .trans ?_ (setWaiting_changes _ _ _)
      exact .single (.unqueued _)

theorem finishTranslation_changes (o : OwnerRef) (s : State) : Changes l s (finishTranslation o s) := by
  simp only [finishTranslation]
  split
  · refine .trans ?_ (updEntry_changes _ _ _ ?_ _)
    · refine updCore_changes _ _ ?_ s
      constructor <;> intro c <;> rfl
    · intro e _
      exact ⟨rfl, rfl, rfl, rfl, rfl, rfl, rfl⟩
  · refine .trans ?_ (startReading_changes _ _)
    refine .trans ?_ (updSlot_changes _ _ ?_)
    · refine updCore_changes _ _ ?_ s
      constructor <;> intro c <;> rfl
    · intro c _
      exact ⟨rfl, rfl, rfl, rfl, rfl, rfl, id⟩

theorem lookupPieces_changes (n : Nat) (o : OwnerRef) (s : State) : Changes l s (lookupPieces n o s) := by
  induction n generalizing s with
  | zero => exact .refl
  | succ n ih =>
    simp only [lookupPieces]
    split
    · exact .refl
    · split
      · split
        · exact offer_changes _ _ _ _ _ _
        · have hp : ∀ (i : Fin 32) (x : Piece),
              Changes l s (updCore o (fun c => { c with pieces := c.pieces ++ [x] }) (touch i s)) := by
            intro i x
            refine .trans (.single (.touch i)) (updCore_changes _ _ ?_ _)
            constructor <;> intro c <;> rfl
          split
          · exact .trans (hp _ _) (failTranslation_changes _ _ _)
          · split
            · exact .trans (hp _ _) (finishTranslation_changes _ _)
            · refine .trans (hp _ _) (.trans (updCore_changes _ _ ?_ _) (ih _))
              constructor <;> intro c <;> rfl
      · exact .refl

theorem lookUp_changes (o : OwnerRef) (s : State) : Changes l s (lookUp o s) := lookupPieces_changes 64 o s

theorem beginTranslation_changes (o : OwnerRef) (s : State) : Changes l s (beginTranslation o s) := by
  simp only [beginTranslation]
  split
  · exact .refl
  · split
    · refine .trans ?_ (finishTranslation_changes _ _)
      refine updCore_changes _ _ ?_ s
      constructor <;> intro c <;> rfl
    · split
      · refine .trans ?_ (failTranslation_changes _ _ _)
        refine updCore_changes _ _ ?_ s
        constructor <;> intro c <;> rfl
      · refine .trans ?_ (lookUp_changes _ _)
        refine updCore_changes _ _ ?_ s
        constructor <;> intro c <;> rfl

theorem reofferWith_changes (ws rs : List OwnerRef) (s : State) : Changes l s (reofferWith ws rs s) := by
  simp only [reofferWith]
  refine .trans (.single (.unqueued [])) (sweep_changes _ ?_ _)
  intro o s
  split
  · exact beginTranslation_changes o s
  · split
    · exact lookUp_changes o s
    · exact .refl

theorem reoffer_changes (s : State) : Changes l s (reoffer s) := reofferWith_changes [] [] s

theorem reofferIfLeft_changes (s0 s : State) : Changes l s (reofferIfLeft s0 s) := by
  unfold reofferIfLeft
  split
  · exact reoffer_changes s
  · exact .refl

/-! ### Marks, detaching, withdrawal -/

theorem clearMarks_changes (k : ApId) (s : State) : Changes l s (clearMarks k s) := by
  have h1 : Changes l s (setPostQueue (clearMarks k s).postQueue s) := by
    refine setPostQueue_changes _ ?_ s
    intro e
    constructor <;> simp only [] <;> split <;> rfl
  have h2 : Changes l s { setPostQueue (clearMarks k s).postQueue s with slots := (clearMarks k s).slots } := by
    refine .tail h1 (.slots _ ?_)
    intro n
    simp only [clearMarks, State.slot, setPostQueue_slots, Vector.getElem_map]
    cases hc : s.slots[n.val] with
    | none => exact Eq.refl none
    | some c => exact ⟨_, rfl, by constructor <;> simp only [] <;> first | exact id | (split <;> rfl)⟩
  exact h2.tail (.misses (clearMarks k s).missQueue (by simp [clearMarks]))

theorem markOld_changes (k : ApId) (g : Gen) (s : State) : Changes l s (markOld k g s) := by
  have h1 : Changes l s (setPostQueue (markOld k g s).postQueue s) := by
    refine setPostQueue_changes _ ?_ s
    intro e
    constructor <;> simp only [] <;> split <;> rfl
  have h2 : Changes l s { setPostQueue (markOld k g s).postQueue s with slots := (markOld k g s).slots } := by
    refine .tail h1 (.slots _ ?_)
    intro n
    simp only [markOld, State.slot, setPostQueue_slots, Vector.getElem_map]
    cases hc : s.slots[n.val] with
    | none => exact Eq.refl none
    | some c => exact ⟨_, rfl, by constructor <;> simp only [] <;> split <;> first | rfl | exact id⟩
  exact h2.tail (.misses (markOld k g s).missQueue (by simp [markOld]))

theorem detachAll_changes (os : List OwnerRef) (s : State) : Changes l s (detachAll os s) :=
  foldl_changes _ (fun s o => detach_changes o s) os s

theorem withdraw_changes (o : OwnerRef) (s : State) : Changes l s (withdraw o s) := by
  unfold withdraw
  split
  · refine .trans ?_ (failTranslation_changes _ _ _)
    split
    · refine updCore_changes _ _ ?_ s
      constructor <;> intro c <;> rfl
    · exact .refl
  · exact .refl

theorem dropWalks_changes (k : ApId) (s : State) : Changes l s (dropWalks k s) :=
  .single (.misses _ (by simp))

theorem filterMisses_changes (p : WalkRequest → Bool) (s : State) :
    Changes l s { s with missQueue := s.missQueue.filter p } :=
  .single (.misses _ (le_trans (List.length_filter_le _ _) (le_max_right _ _)))

theorem withdrawAll_changes (k : ApId) (s : State) : Changes l s (withdrawAll k s) := by
  simp only [withdrawAll]
  refine .trans ?_ (sweep_changes _ ?_ _)
  · exact .trans (detachAll_changes _ s) (filterMisses_changes _ _)
  · intro o s
    split
    · exact withdraw_changes o s
    · exact .refl

theorem failWaiters_changes (os : List OwnerRef) (f : OwnerCore → Failure) (s : State) :
    Changes l s (failWaiters os f s) := by
  refine sweep_changes _ ?_ s
  intro o s
  split
  · split
    · exact failTranslation_changes _ _ _
    · exact .refl
  · exact .refl

end Sys2Proof.Machine
end

