-- ==== Sys2Proof/Laws/Events.lean ====
section
/-! SUPPORT. What walks, jobs, tags and the end of an event do is a chain of changes: one lemma for each operation. -/

namespace Sys2Proof.Machine

variable {l : Level}

/-! ### Aperture records -/

theorem updAp_keeps (k : ApId) (f : Aperture → Aperture) (s : State) (h : ApKeeps (s.ap k) (f (s.ap k))) :
    Changes l s (updAp k f s) := .single (.ap k _ (.inl h))

theorem updAp_moves (hl : l ≠ .owner) (k : ApId) (f : Aperture → Aperture) (s : State)
    (h : ApMoves (s.ap k) (f (s.ap k))) : Changes l s (updAp k f s) := .single (.apMove hl k _ h)

/-! ### Faults, switches and the outcomes of jobs -/

theorem forgetJob_changes (hl : l ≠ .owner) (js : List Job) (g : Bool) (s : State) (h : js.length ≤ s.jobs.length) :
    Changes l s (cancelOps anyLine g { s with jobs := js, validation := none }) := by
  have h1 : Changes l s { s with jobs := js } := .single (.jobs hl js h)
  exact (h1.tail (.validation hl none)).tail (.cancel anyLine g)

theorem cancelJob_changes (hl : l ≠ .owner) (k : ApId) (s : State) : Changes l s (cancelJob k s) := by
  simp only [cancelJob]
  split
  · exact forgetJob_changes hl _ true s (List.length_filter_le _ _)
  · exact .single (.jobs hl _ (List.length_filter_le _ _))

theorem cancelAllJobs_changes (hl : l ≠ .owner) (s : State) : Changes l s (cancelAllJobs s) :=
  forgetJob_changes hl [] true s (Nat.zero_le _)

theorem closeJob_changes (hl : l ≠ .owner) (s : State) : Changes l s (closeJob s) :=
  forgetJob_changes hl _ true s (by simp)

/-- An aperture that is VALIDATING stays so through what owners do. -/
theorem validating_kept {s t : State} {k : ApId} (h : Changes .owner s t)
    (hs : (s.ap k).state = .rebinding .validating) : (t.ap k).state = .rebinding .validating := by
  induction h with
  | refl => exact hs
  | @tail u v _ hc ih =>
    cases hc with
    | ap j a h =>
      rw [setAp_ap]
      split
      · rename_i e
        subst e
        rcases h with h | h
        · exact h.2.1.trans ih
        · have := h.2.1; rw [ih] at this; cases this
      · exact ih
    | drain j hj hn =>
      simp only [enterFree, ap_congr (setPlaces_apertures _ _ _), updAp_ap]
      split
      · rename_i e
        subst e
        rw [ih] at hj
        cases hj
      · exact ih
    | leaving e he =>
      simp only [removeEntry, lowerInFlight]
      split
      · exact ih
      · rw [updAp_ap]
        split
        · rename_i e; subst e; exact ih
        · exact ih
    | post p => unfold post; split <;> exact ih
    | touch i => rw [ap_congr (touch_apertures _ _)]; exact ih
    | invalidate p => exact ih
    | misses q h => exact ih
    | unqueued q => exact ih
    | entries f h => exact ih
    | slots v h => exact ih
    | loss r => exact ih
    | cancel p g => exact ih
    | choices n => exact ih
    | _ => exact absurd rfl ‹Level.owner ≠ Level.owner›

theorem serves_of_translates {a : ApState} (h : a.translates = true) (hd : a ≠ .draining) : a.serves = true := by
  cases a <;> simp_all [ApState.translates, ApState.serves]

theorem faultAperture_changes (hl : l ≠ .owner) (k : ApId) (f : Finding) (s : State)
    (h : (s.ap k).state.serves = true) : Changes l s (faultAperture k f s) := by
  have hm : Changes l s (withdrawAll k (post
      { kind := .apertureFaulted, cause := some f.cause, sub := f.sub.map SubReason.bad, aperture := some k,
        generation := some (s.ap k).generation, extentIndex := some f.index }
      (dropWalks k (invalidateAp k (clearMarks k (updAp k Aperture.fault s)))))) := by
    refine .trans ?_ (withdrawAll_changes _ _)
    refine .tail ?_ (.post _)
    refine .trans ?_ (dropWalks_changes _ _)
    refine .tail ?_ (.invalidate _)
    refine .trans ?_ (clearMarks_changes _ _)
    exact updAp_moves hl k _ s ⟨⟨rfl, rfl, rfl, rfl, rfl, rfl, le_max_right _ _⟩,
      .inr (.inr (.inr ⟨h, rfl, rfl⟩))⟩
  simp only [faultAperture]
  split
  · exact .tail (.trans hm (cancelJob_changes hl k _)) (.post _)
  · exact hm

theorem ApState.validating_serves {a : ApState} (h : a = .rebinding .validating) : a.serves = true := by
  subst h; rfl

/-- Changes of owners are changes of every level. -/
theorem Change.ofOwner {s t : State} (h : Change .owner s t) : Change l s t := by
  cases h with
  | ap k a h => exact .ap k a h
  | drain k h hn => exact .drain k h hn
  | choices n => exact .choices n
  | touch i => exact .touch i
  | invalidate p => exact .invalidate p
  | misses q h => exact .misses q h
  | unqueued u => exact .unqueued u
  | entries f h => exact .entries f h
  | leaving e h => exact .leaving e h
  | slots v h => exact .slots v h
  | loss r => exact .loss r
  | cancel p g => exact .cancel p g
  | post p => exact .post p
  | _ => exact absurd rfl ‹Level.owner ≠ Level.owner›

theorem Changes.ofOwner {s t : State} (h : Changes .owner s t) : Changes l s t := by
  induction h with
  | refl => exact .refl
  | tail _ h ih => exact ih.tail h.ofOwner

theorem switch_changes (hl : l ≠ .owner) (k : ApId) (r : ListRef) (v : Validated) (s : State)
    (h : (s.ap k).state = .rebinding .validating) : Changes l s (switch k r v s) := by
  simp only [switch]
  refine .trans ?_ (settleTest_changes _ _)
  -- the owners act in between, and the aperture is VALIDATING still
  have hm : ∀ u v : State, Changes l s u → (u.ap k).state = .rebinding .validating → Changes .owner u v →
      ∀ n g, Changes l s (updAp k (·.settle n) (markOld k g v)) := by
    intro u v hu hk ho n g
    have ho2 := ho.trans (markOld_changes (l := .owner) k g v)
    have hv := validating_kept ho2 hk
    refine .trans (.trans hu (Changes.ofOwner ho2)) (updAp_moves hl k _ _ ⟨⟨rfl, rfl, rfl, rfl, rfl, rfl, le_max_right _ _⟩, ?_⟩)
    exact .inr (.inr (.inl ⟨hv, rfl, rfl⟩))
  refine hm (invalidateAp k (setPlaces k v.places (updAp k (fun a =>
    { a.installList r v with generation := (s.ap k).generation + 1 }) s))) _ ?_ ?_ ?_ _ _
  · refine .tail ?_ (.invalidate _)
    refine .tail ?_ (.places hl k _)
    exact updAp_keeps k _ s ⟨⟨rfl, rfl, rfl, rfl, rfl, rfl, le_max_right _ _⟩, rfl, rfl⟩
  · rw [ap_congr (invalidateAp_apertures _ _), ap_congr (setPlaces_apertures _ _ _), updAp_ap, if_pos rfl]
    exact h
  · refine .trans ?_ (reofferWith_changes _ _ _)
    exact .trans (detachAll_changes _ _) (filterMisses_changes _ _)

theorem loadDone_changes (hl : l ≠ .owner) (k : ApId) (r : ListRef) (v : Validated) (s : State) :
    Changes l s (loadDone k r v s) := by
  unfold loadDone
  split
  · rename_i h
    refine .tail ?_ (.post _)
    refine .tail ?_ (.places hl k _)
    refine updAp_moves hl k _ s ⟨⟨rfl, rfl, rfl, rfl, rfl, rfl, le_max_right _ _⟩, ?_⟩
    exact .inl ⟨by simpa using h, rfl, rfl⟩
  · exact .refl

theorem loadFailed_changes (hl : l ≠ .owner) (k : ApId) (f : JobFailure) (s : State) :
    Changes l s (loadFailed k f s) := by
  unfold loadFailed
  split
  · rename_i h
    exact .tail (.single (.unload hl k (by simpa using h))) (.post _)
  · exact .refl

theorem rebindSucceeds_changes (hl : l ≠ .owner) (k : ApId) (r : ListRef) (v : Validated) (s : State) :
    Changes l s (rebindSucceeds k r v s) := by
  unfold rebindSucceeds
  split
  · rename_i h
    exact switch_changes hl k r v s (by simpa using h)
  · exact .refl

theorem rebindFails_changes (hl : l ≠ .owner) (k : ApId) (f : JobFailure) (s : State) :
    Changes l s (rebindFails k f s) := by
  unfold rebindFails
  split
  · rename_i h
    refine .tail ?_ (.post _)
    refine updAp_moves hl k _ s ⟨⟨rfl, rfl, rfl, rfl, rfl, rfl, le_max_right _ _⟩, ?_⟩
    exact .inr (.inl ⟨by simpa using h, rfl, rfl⟩)
  · exact .refl

/-! ### Walks -/

theorem placeFound_changes (hl : l ≠ .owner) (x : Found) (i : Fin 32) (s : State) : Changes l s (placeFound x i s) := by
  unfold placeFound
  refine .tail ?_ (.touch _)
  exact .single (.cached hl _ _ rfl)

theorem install_changes (hl : l ≠ .owner) (x : Found) (s : State) : Changes l s (install x s) := by
  simp only [install]
  split
  · exact placeFound_changes hl x _ s
  · exact .trans (.single (.invalidate _)) (placeFound_changes hl x _ _)

theorem takeFind_changes (hl : l ≠ .owner) (x : Found) (s : State) : Changes l s (takeFind x s) := by
  refine .trans (install_changes hl x s) (updAp_keeps _ _ _ ?_)
  exact ⟨⟨rfl, rfl, rfl, rfl, rfl, rfl, le_max_right _ _⟩, rfl, rfl⟩

theorem walkOutcome_changes (hl : l ≠ .owner) (w : WalkRequest) (r : WalkOutcome) (s : State) :
    Changes l s (walkOutcome w r s) := by
  simp only [walkOutcome]
  split
  · rename_i hc
    simp only [currentWalk, Bool.and_eq_true] at hc
    split
    · exact takeFind_changes hl _ s
    · split
      · exact failWaiters_changes _ _ s
      · rename_i hd
        exact faultAperture_changes hl _ _ s (serves_of_translates hc.2 (by simpa using hd))
    · exact failWaiters_changes _ _ s
  · exact .refl

theorem endWalk_changes (hl : l ≠ .owner) (e : EngineId) (r : WalkOutcome) (s : State) :
    Changes l s (endWalk e r s) := by
  simp only [endWalk]
  split
  · exact .refl
  · refine .trans ?_ (reofferWith_changes _ _ _)
    refine .trans ?_ (walkOutcome_changes hl _ _ _)
    refine .trans ?_ (drainTest_changes _ _)
    split
    · exact .trans (filterMisses_changes _ s) (uncount_changes _ _)
    · exact filterMisses_changes _ s

theorem walkOp_classed (w : WalkRequest) (x : Walk) : (walkOp w x).classed := by
  intro o h
  cases h
  rfl

theorem engineTag_class (e : EngineId) : tagClass (engineTag e) = .walk := by
  revert e; decide

theorem issueWalk_changes (hl : l ≠ .owner) (e : EngineId) (w : WalkRequest) (x : Walk) (q : List WalkRequest)
    (s : State) (h : q.length = s.missQueue.length) :
    Changes l s (issue (engineTag e) (walkOp w x) { s with missQueue := q }) := by
  have h1 : Changes l s { s with missQueue := q } := .single (.misses q (by omega))
  exact h1.tail (.issue hl _ _ (engineTag_class e).symm (walkOp_classed w x))

theorem walkLine_changes (hl : l ≠ .owner) (e : EngineId) (op : Op) (bs : List Byte) (s : State) :
    Changes l s (walkLine e op bs s) := by
  simp only [walkLine]
  split
  · exact .refl
  · split
    · exact .refl
    · split
      · exact endWalk_changes hl _ _ s
      · exact endWalk_changes hl _ _ s
      · exact issueWalk_changes hl _ _ _ _ s (updFirst_length _ _ _)

theorem startWalk_changes (hl : l ≠ .owner) (e : EngineId) (s : State) : Changes l s (startWalk e s) := by
  simp only [startWalk]
  split
  · split
    · exact issueWalk_changes hl _ _ _ _ s (updFirst_length _ _ _)
    · exact .refl
  · exact .refl

theorem startWalks_changes (hl : l ≠ .owner) (s : State) : Changes l s (startWalks s) :=
  .trans (startWalk_changes hl 0 s) (startWalk_changes hl 1 _)

/-! ### The validation engine -/

theorem startJob_changes (hl : l ≠ .owner) (s : State) : Changes l s (startJob s) := by
  unfold startJob
  split
  · split
    · exact .refl
    · rename_i j js hj _
      have h1 : Changes l s { s with jobs := { j with running := true } :: js } :=
        .single (.jobs hl _ (by simp [hj]))
      exact h1.tail (.validation hl _)
  · exact .refl

theorem freeTag_class {c : TagClass} {s : State} {t : TagId} (h : freeTag c s = some t) : tagClass t = c := by
  have := List.find?_some h
  simp only [Bool.and_eq_true, beq_iff_eq] at this
  exact this.1

theorem lineOp_classed (j : Job) (k : Nat) : (lineOp j k).classed := by
  intro o h
  cases h
  rfl

theorem issueLine_changes (hl : l ≠ .owner) (s : State) : Changes l s (issueLine s) := by
  unfold issueLine
  split
  · rename_i t j v ht hj hv
    split
    · split
      · rename_i k _ op hw
        exact .single (.reissue hl t _ op (freeTag_class ht).symm hw)
      · exact .refl
    · split
      · refine .tail ?_ (.issue hl t _ (freeTag_class ht).symm (lineOp_classed _ _))
        exact .single (.validation hl _)
      · exact .refl
  · exact .refl

theorem runValidation_changes (hl : l ≠ .owner) (s : State) : Changes l s (runValidation s) :=
  .trans (.trans (startJob_changes hl s) (issueLine_changes hl _)) (issueLine_changes hl _)

theorem failJob_changes (hl : l ≠ .owner) (j : Job) (f : JobFailure) (s : State) : Changes l s (failJob j f s) := by
  unfold failJob
  split
  · exact .trans (closeJob_changes hl s) (loadFailed_changes hl _ _ _)
  · exact .trans (closeJob_changes hl s) (rebindFails_changes hl _ _ _)

theorem succeedJob_changes (hl : l ≠ .owner) (j : Job) (v : Validation) (s : State) :
    Changes l s (succeedJob j v s) := by
  simp only [succeedJob]
  split
  · exact .trans (closeJob_changes hl s) (loadDone_changes hl _ _ _ _)
  · exact .trans (closeJob_changes hl s) (rebindSucceeds_changes hl _ _ _ _)

theorem advanceLine_changes (hl : l ≠ .owner) (v : Validation) (s : State) : Changes l s (advanceLine v s) :=
  .trans (.single (.validation hl _)) (issueLine_changes hl _)

theorem processLines_changes (hl : l ≠ .owner) (n : Nat) (j : Job) (bs : List Byte) (v : Validation) (s : State) :
    Changes l s (processLines n j bs v s) := by
  induction n generalizing bs v s with
  | zero => exact .single (.validation hl _)
  | succ n ih =>
    simp only [processLines]
    split
    · exact failJob_changes hl _ _ s
    · split
      · exact succeedJob_changes hl _ _ s
      · rename_i v' _ _
        refine .trans (advanceLine_changes hl v' s) ?_
        split
        · exact .refl
        · split
          · split
            · exact .trans (.single (.validation hl _)) (ih _ _ _)
            · exact .refl
          · split
            · exact failJob_changes hl _ _ _
            · exact .refl
          · exact .refl

theorem lineOk_changes (hl : l ≠ .owner) (k : Nat) (bs : List Byte) (s : State) : Changes l s (lineOk k bs s) := by
  unfold lineOk
  split
  · split
    · exact processLines_changes hl _ _ _ _ s
    · exact .single (.validation hl _)
  · exact .refl

theorem lineFailed_changes (hl : l ≠ .owner) (k : Nat) (c : MemCause) (t : TagId) (s : State) :
    Changes l s (lineFailed k c t s) := by
  simp only [lineFailed]
  split
  · split
    · exact failJob_changes hl _ _ s
    · exact .single (.validation hl _)
  · exact .refl

/-! ### The arbiter and the end of an event -/

theorem writeOp_classed (e : PostEntry) (p : Piece) : (writeOp e p).classed := by
  intro o h
  cases h
  rfl

theorem readOp_classed (n : SlotId) (c : Slot) (p : Piece) : (readOp n c p).classed := by
  intro o h
  cases h
  rfl

theorem grantWrite_changes (hl : l ≠ .owner) (t : TagId) (e : PostEntry) (p : Piece) (s : State)
    (ht : tagClass t = .data) : Changes l s (grantWrite t e p s) := by
  simp only [grantWrite]
  split
  · rename_i op hw
    exact .tail (.single (.granted hl _)) (.reissue hl t _ op ht.symm hw)
  · refine .tail ?_ (.issue hl t _ ht.symm (writeOp_classed e p))
    refine .trans ?_ (updEntry_changes _ _ _ ?_ _)
    · exact .trans (.single (.granted hl _)) (updPiece_changes _ _ _ _)
    · intro e _
      exact ⟨rfl, rfl, rfl, rfl, rfl, rfl, rfl⟩

theorem grantRead_changes (hl : l ≠ .owner) (t : TagId) (n : SlotId) (c : Slot) (p : Piece) (s : State)
    (ht : tagClass t = .data) : Changes l s (grantRead t n c p s) := by
  simp only [grantRead]
  split
  · rename_i op hw
    exact .tail (.single (.granted hl _)) (.reissue hl t _ op ht.symm hw)
  · refine .tail ?_ (.issue hl t _ ht.symm (readOp_classed n c p))
    exact .trans (.single (.granted hl _)) (updPiece_changes _ _ _ _)

theorem grantOnce_changes (hl : l ≠ .owner) (s t : State) (h : grantOnce s = some t) : Changes l s t := by
  unfold grantOnce at h
  split at h
  · cases h
  · rename_i u hu
    have hc := freeTag_class hu
    split at h
    · split at h <;> cases h
      · exact grantRead_changes hl _ _ _ _ s hc
      · exact grantWrite_changes hl _ _ _ s hc
    · cases h; exact grantWrite_changes hl _ _ _ s hc
    · cases h; exact grantRead_changes hl _ _ _ _ s hc
    · cases h

theorem grants_changes (hl : l ≠ .owner) (n : Nat) (s : State) : Changes l s (grants n s) := by
  induction n generalizing s with
  | zero => exact .refl
  | succ n ih =>
    simp only [grants]
    split
    · rename_i t ht
      exact .trans (grantOnce_changes hl s t ht) (ih t)
    · exact .refl

theorem softResetTest_changes (hl : l ≠ .owner) (s : State) : Changes l s (softResetTest s) := by
  unfold softResetTest
  split
  · rename_i h
    simp only [resetDue, Bool.and_eq_true] at h
    exact .single (.softReset hl h.1.1)
  · exact .refl

theorem offerTags_changes (hl : l ≠ .owner) (s : State) : Changes l s (offerTags s) :=
  .trans (.trans (.trans (startWalks_changes hl s) (grants_changes hl _ _)) (runValidation_changes hl _))
    (softResetTest_changes hl _)

/-! ### Outcomes handed to owners -/

theorem entryWritten_changes (r : ReqId) (q : Seq) (i : Nat) (s : State) : Changes l s (entryWritten r q i s) := by
  simp only [entryWritten]
  refine .trans ?_ (leaveAll_changes _ _)
  refine .trans (updPiece_changes _ _ _ s) (updEntry_changes _ _ _ ?_ _)
  intro e _
  constructor <;> split <;> rfl

theorem slotRead_changes (n : SlotId) (i : Nat) (bs : List Byte) (s : State) : Changes l s (slotRead n i bs s) := by
  refine .trans ?_ (slotUncount_changes n _)
  refine .trans ?_ (becomeReady_changes n _)
  exact updPiece_changes _ _ _ s

theorem endCancelled_changes (op : Op) (s : State) : Changes l s (endCancelled op s) := by
  unfold endCancelled
  split
  · exact .trans (updPiece_changes _ _ _ s) (leaveAll_changes _ _)
  · exact .trans (updPiece_changes _ _ _ s) (slotUncount_changes _ _)
  · exact .refl

theorem opOk_changes (hl : l ≠ .owner) (op : Op) (lanes : Lanes) (s : State) : Changes l s (opOk op lanes s) := by
  simp only [opOk]
  split
  · exact walkLine_changes hl _ _ _ s
  · exact lineOk_changes hl _ _ s
  · exact entryWritten_changes _ _ _ s
  · exact slotRead_changes _ _ _ s
  · exact .refl

theorem opFailed_changes (hl : l ≠ .owner) (op : Op) (c : MemCause) (t : TagId) (s : State) :
    Changes l s (opFailed op c t s) := by
  unfold opFailed
  split
  · exact endWalk_changes hl _ _ s
  · exact lineFailed_changes hl _ _ _ s
  · exact .trans (failOwner_changes _ _ s) (leaveAll_changes _ _)
  · exact failOwner_changes _ _ s
  · exact .refl

end Sys2Proof.Machine
end

