-- ==== Sys2Proof/Laws/Commands.lean ====
section
/-! SUPPORT. Every command's meaning answers a next state, and that state is a chain of changes away:
`exec_changes`, and `step_changes` for a step. -/

namespace Sys2Proof.Machine

theorem command_ne_owner : Level.command ≠ Level.owner := by decide

/-- Changes of events are a command's. -/
theorem drive_changes (o : Outputs) (s : State) : Changes .command s { s with out := o } := .single (.out o)

theorem beginEvent_changes (s : State) : Changes .command s (beginEvent s) := drive_changes {} s

theorem respond_changes (x : BusResponse) (s : State) : Changes .command s (respond x s) := drive_changes _ s

theorem driveFrame_changes (n : Nat) (s : State) : Changes .command s (driveFrame n s) := drive_changes _ s

theorem answer_changes (v : Byte) (a : Answer) (bs : List Byte) (s : State) :
    Changes .command s (answer v a bs s) := .single (.response _)

theorem answerOk_changes (v : Byte) (s : State) : Changes .command s (answerOk v s) := answer_changes v .ok [] s

/-! ### The initiator port -/

theorem countRefusal_changes (r : ReqId) (s : State) : Changes .command s (countRefusal r s) :=
  .single (.req r _ ⟨rfl, rfl, rfl, rfl, le_trans (Nat.min_le_left _ _) (le_max_left _ _), .inl ⟨rfl, rfl⟩⟩)

theorem refuse_changes (r : ReqId) (w : RefusalReason) (s : State) : Changes .command s (refuse r w s) :=
  .trans (respond_changes _ s) (countRefusal_changes r _)

theorem freeSlot_changes (n : SlotId) (s : State) : Changes .command s (freeSlot n s) := by
  simp only [freeSlot]
  split
  · exact .refl
  · rename_i c hc
    refine .trans ?_ (drainTestOf_changes _ _)
    refine .trans ?_ (uncountIf_changes _ _ _)
    refine .tail (b := cancelOps (pieceOf (.slot n)) true (detach (.slot n) s)) ?_ (.freeing n c ?_)
    · exact .tail (detach_changes _ s) (.cancel _ _)
    · exact hc

theorem freeSlots_changes (ns : List SlotId) (s : State) : Changes .command s (freeSlots ns s) :=
  foldl_changes _ (fun s n => freeSlot_changes n s) ns s

theorem decode_serves {w : Bool} {r : ReqId} {a : Addr} {len : Nat} {s : State} {p : Place}
    (h : decode w r a len s = .translated p) : (s.ap p.aperture).state.serves = true := by
  have hd : ∀ off k (x : Aperture), decodeServed w r off len k x = .translated p → p.aperture = k := by
    intro off k x h
    unfold decodeServed at h
    split at h
    · cases h
    · split at h <;> cases h
      rfl
  unfold decode at h
  split at h
  · cases h
  · split at h
    · rename_i k _
      split at h <;> first | cases h | skip
      · rename_i hs; rw [hd _ _ _ h, hs]; rfl
      · rename_i hs; rw [hd _ _ _ h, hs]; rfl
    · split at h <;> cases h

theorem takeWrite_changes (r : ReqId) (a : Addr) (len : Nat) (bs : List Byte) (p : Option Place) (s : State)
    (hr : writeRoom r s = true) (hp : placeServes p s) : Changes .command s (takeWrite r a len bs p s) := by
  simp only [writeRoom, Bool.and_eq_true, decide_eq_true_eq] at hr
  simp only [takeWrite]
  refine .trans ?_ (offerTags_changes command_ne_owner _)
  refine .trans ?_ (leaveAll_changes _ _)
  refine .trans ?_ (beginTranslation_changes _ _)
  refine .trans ?_ (reofferIfLeft_changes _ _)
  refine .trans ?_ (freeSlots_changes _ _)
  exact .tail (respond_changes _ s) (.take _ hr.1 rfl hp)

theorem writeDecoded_changes (r : ReqId) (a : Addr) (len : Nat) (bs : List Byte) (p : Option Place) (s : State)
    (hp : placeServes p s) : Changes .command s (writeDecoded r a len bs p s) := by
  unfold writeDecoded
  split
  · rename_i h
    exact takeWrite_changes r a len bs p s h hp
  · exact respond_changes _ s

theorem writePresented_changes (r : ReqId) (a : Addr) (len : Nat) (lanes : Lanes) (s : State) :
    Changes .command s (writePresented r a len lanes s) := by
  unfold writePresented
  split
  · exact respond_changes _ s
  · split
    · exact refuse_changes _ _ s
    · split
      · exact refuse_changes _ _ s
      · split
        · exact respond_changes _ s
        · exact refuse_changes _ _ s
        · exact writeDecoded_changes _ _ _ _ _ s (fun x h => by cases h)
        · rename_i q hq
          exact writeDecoded_changes _ _ _ _ _ s (fun x h => by cases h; exact decode_serves hq)

theorem answerFromSlot_changes (n : SlotId) (s : State) : Changes .command s (answerFromSlot n s) := by
  simp only [answerFromSlot]
  split
  · split
    · exact .trans (respond_changes _ s) (freeSlot_changes n _)
    · exact respond_changes _ s
  · exact .refl

theorem openSlot_changes (n : SlotId) (r : ReqId) (a : Addr) (len : Nat) (p : Option Place) (s : State)
    (hn : s.slot n = none) (hm : matchingSlot r a len s = none) (hp : placeServes p s) :
    Changes .command s (openSlot n r a len p s) := by
  simp only [openSlot]
  refine .trans ?_ (offerTags_changes command_ne_owner _)
  refine .trans ?_ (beginTranslation_changes _ _)
  refine .tail (respond_changes _ s) (.opening n (newSlot r a len p s) hn ?_ hp)
  intro m d hd h1 h2 h3
  have := List.find?_eq_none.mp hm m (List.mem_finRange m)
  rw [show (s.slot m) = some d from hd] at this
  simp only [Option.elim, Slot.matchesKey, Bool.and_eq_true, beq_iff_eq, not_and] at this
  exact this ⟨h1, h2⟩ h3

theorem readDecoded_changes (r : ReqId) (a : Addr) (len : Nat) (p : Option Place) (s : State)
    (hm : matchingSlot r a len s = none) (hp : placeServes p s) : Changes .command s (readDecoded r a len p s) := by
  unfold readDecoded
  split
  · rename_i n hn
    split
    · refine openSlot_changes n r a len p s ?_ hm hp
      simpa using List.find?_some hn
    · exact respond_changes _ s
  · exact respond_changes _ s

theorem readPresented_changes (r : ReqId) (a : Addr) (len : Nat) (s : State) :
    Changes .command s (readPresented r a len s) := by
  unfold readPresented
  split
  · exact respond_changes _ s
  · split
    · exact refuse_changes _ _ s
    · split
      · exact refuse_changes _ _ s
      · split
        · exact answerFromSlot_changes _ s
        · rename_i hm
          split
          · exact respond_changes _ s
          · exact refuse_changes _ _ s
          · exact readDecoded_changes _ _ _ _ s hm (fun x h => by cases h)
          · rename_i q hq
            exact readDecoded_changes _ _ _ _ s hm (fun x h => by cases h; exact decode_serves hq)

theorem syncAnswer_counts (q : Requester) : ReqCounts q (syncAnswer q).2 := by
  unfold syncAnswer
  split
  · split
    · split <;> exact ⟨rfl, rfl, rfl, rfl, le_max_right _ _, .inl ⟨rfl, rfl⟩⟩
    · exact ⟨rfl, rfl, rfl, rfl, le_max_right _ _, .inl ⟨rfl, rfl⟩⟩
  · exact ⟨rfl, rfl, rfl, rfl, le_max_right _ _, .inl ⟨rfl, rfl⟩⟩
  · split <;> exact ⟨rfl, rfl, rfl, rfl, le_max_right _ _, .inl ⟨rfl, rfl⟩⟩

theorem syncPresented_changes (r : ReqId) (s : State) : Changes .command s (syncPresented r s) := by
  simp only [syncPresented]
  split
  · exact respond_changes _ s
  · split
    · exact refuse_changes _ _ s
    · split
      · exact respond_changes _ s
      · exact .tail (respond_changes _ s) (.req r _ (syncAnswer_counts _))

/-! ### Memory responses -/

theorem takeResponse_changes (t : TagId) (act : Op → State → State) (s : State)
    (h : ∀ op, s.tag t = .outstanding op → Changes .command s (act op (setTag t .free s))) :
    Changes .command s (takeResponse t act s) := by
  simp only [takeResponse]
  split
  · exact .single (.post _)
  · refine .trans ?_ (offerTags_changes command_ne_owner _)
    exact .tail (.single (.freeTag command_ne_owner t)) (.post _)
  · rename_i op hop
    refine .trans ?_ (offerTags_changes command_ne_owner _)
    split
    · exact .trans (.single (.freeTag command_ne_owner t)) (endCancelled_changes _ _)
    · exact h op hop

theorem responseInReset_changes (t : TagId) (s : State) : Changes .command s (responseInReset t s) := by
  simp only [responseInReset]
  split
  · exact .tail (.single (.choices _)) (.post _)
  · exact .single (.choices _)

theorem opBusy_changes (t : TagId) (op : Op) (s : State) (h : s.tag t = .outstanding op) :
    Changes .command s (opBusy t op (setTag t .free s)) := by
  simp only [opBusy]
  split
  · exact .trans (.single (.freeTag command_ne_owner t)) (opFailed_changes command_ne_owner _ _ _ _)
  · exact .single (.backoff command_ne_owner t op _ h rfl rfl)

/-! ### Intervals -/

theorem expireTag_changes (t : TagId) (s : State) : Changes .command s (expireTag t s) := by
  simp only [expireTag]
  split
  · refine .trans ?_ (offerTags_changes command_ne_owner _)
    have h := Changes.toCommand (.single (.quarantine (l := .event) (by decide) t ‹Op›.fields) : Changes .event s _)
    split
    · exact .trans h (endCancelled_changes _ _)
    · exact .trans h (opFailed_changes command_ne_owner _ _ _ _)
  · exact .refl

theorem expireSlot_changes (n : SlotId) (s : State) : Changes .command s (expireSlot n s) := by
  unfold expireSlot
  split
  · split
    · exact .trans (.single (.post _)) (freeSlot_changes n _)
    · exact .refl
  · exact .refl

theorem reissueWalk_changes (e : EngineId) (s : State) : Changes .command s (reissueWalk e s) := by
  unfold reissueWalk
  split
  · rename_i op h
    split
    · exact .single (.reissue command_ne_owner _ (.walk e) op (engineTag_class e).symm h)
    · exact .refl
  · exact .refl

theorem resumeOps_changes (s : State) : Changes .command s (resumeOps s) :=
  .trans (.trans (reissueWalk_changes 0 s) (reissueWalk_changes 1 _)) (offerTags_changes command_ne_owner _)

theorem takeExpiry_changes (x : Expiry) (s : State) : Changes .command s (takeExpiry x s) := by
  unfold takeExpiry
  split
  · split
    · exact expireTag_changes _ s
    · exact expireSlot_changes _ s
    · refine .trans ?_ (resumeOps_changes _)
      exact .single (.backoffs _ fun _ _ => rfl)
  · exact .refl

theorem takeExpiries_changes (xs : List Expiry) (s : State) : Changes .command s (takeExpiries xs s) :=
  foldl_changes _ (fun s x => takeExpiry_changes x s) xs s

theorem produceTick_changes (s : State) : Changes .command s (produceTick s) := by
  simp only [produceTick]
  have h : Changes .command s (lowerTimers { s with tickCounter := 0 }) :=
    .tail (.single (.clock 0 s.resetLow)) .timers
  split
  · exact .trans h (takeExpiries_changes _ _)
  · exact .trans (h.tail (.choices _)) (takeExpiries_changes _ _)

theorem clockCycle_changes (s : State) : Changes .command s (clockCycle s) := by
  simp only [clockCycle]
  refine .trans (beginEvent_changes s) ?_
  split
  · exact .refl
  · split
    · exact .single (.clock _ (beginEvent s).resetLow)
    · exact produceTick_changes _

/-! ### The management port -/

theorem takeCommand_changes (v : Byte) (n : Nat) (g : Bool) (args : List Byte) (body : State → State) (s : State)
    (h : ∀ u, Changes .command u (body u)) : Changes .command s (takeCommand v n g args body s) := by
  simp only [takeCommand]
  split
  · exact .refl
  · refine .trans (b := driveFrame (3 + args.length) s) (driveFrame_changes _ s) ?_
    split
    · exact answer_changes _ _ _ _
    · split
      · exact answer_changes _ _ _ _
      · exact h _

theorem withId_changes (v x : Byte) (f : Fin 16 → State → State) (s : State)
    (h : ∀ k, Changes .command s (f k s)) : Changes .command s (withId v x f s) := by
  unfold withId
  split
  · exact h _
  · exact answer_changes _ _ _ s

theorem globalArgs_inRange {args : List Byte} {g : Settings} (h : globalArgs args = some g) : g.inRange := by
  simp only [globalArgs] at h
  split at h
  · cases h
  · rename_i hn
    cases h
    have h1 := (byteAt args 1).isLt
    have h2 := (byteAt args 2).isLt
    simp only [Settings.inRange]
    omega

theorem identFrame_changes (args : List Byte) (s : State) : Changes .command s (identFrame args s) :=
  takeCommand_changes _ _ _ _ _ s fun u => answer_changes _ _ _ u

theorem getStatusFrame_changes (args : List Byte) (s : State) : Changes .command s (getStatusFrame args s) := by
  refine takeCommand_changes _ _ _ _ _ s fun u => ?_
  simp only []
  split
  · exact .tail (answer_changes _ _ _ u) .clearDropped
  · exact answer_changes _ _ _ u

theorem setGlobalFrame_changes (args : List Byte) (s : State) : Changes .command s (setGlobalFrame args s) := by
  refine takeCommand_changes _ _ _ _ _ s fun u => ?_
  split
  · rename_i g hg
    exact .trans (.single (.settings g (globalArgs_inRange hg))) (answerOk_changes _ _)
  · exact answer_changes _ _ _ u

theorem getRequesterFrame_changes (args : List Byte) (s : State) :
    Changes .command s (getRequesterFrame args s) :=
  takeCommand_changes _ _ _ _ _ s fun u => withId_changes _ _ _ u fun _ => answer_changes _ _ _ u

theorem setRequesterFrame_changes (args : List Byte) (s : State) :
    Changes .command s (setRequesterFrame args s) := by
  refine takeCommand_changes _ _ _ _ _ s fun u => withId_changes _ _ _ u fun r => ?_
  split
  · split
    · rename_i m _ h
      simp only [limitsInRange, Bool.and_eq_true, decide_eq_true_eq] at h
      refine .trans ?_ (answerOk_changes _ _)
      refine .single (.req r ((u.req r).setTo args m)
        ⟨rfl, rfl, rfl, rfl, ?_, .inr ⟨h.1.1.1, h.1.1.2, h.1.2, h.2⟩⟩)
      simp only [Requester.setTo]
      split
      · exact Nat.zero_le _
      · exact le_max_right _ _
    · exact answer_changes _ _ _ u
  · exact answer_changes _ _ _ u

theorem loadFrame_changes (args : List Byte) (s : State) : Changes .command s (loadFrame args s) := by
  refine takeCommand_changes _ _ _ _ _ s fun u => withId_changes _ _ _ u fun k => ?_
  unfold loadAperture
  split
  · exact answer_changes _ _ _ u
  · rename_i hf
    split
    · exact answer_changes _ _ _ u
    · split
      · exact answer_changes _ _ _ u
      · rename_i hw
        split
        · exact answer_changes _ _ _ u
        · rename_i hj
          refine .trans ?_ (answerOk_changes _ _)
          refine .trans ?_ (runValidation_changes command_ne_owner _)
          refine .tail ?_ (.join k .load _ (by simpa using hj))
          exact .single (.load k _ (by simpa using hf) (by simpa using hw))

theorem rebindFrame_changes (args : List Byte) (s : State) : Changes .command s (rebindFrame args s) := by
  refine takeCommand_changes _ _ _ _ _ s fun u => withId_changes _ _ _ u fun k => ?_
  unfold rebindAperture
  split
  · exact answer_changes _ _ _ u
  · rename_i hf
    split
    · exact answer_changes _ _ _ u
    · split
      · exact answer_changes _ _ _ u
      · rename_i hj
        refine .trans ?_ (answerOk_changes _ _)
        refine .trans ?_ (runValidation_changes command_ne_owner _)
        refine .tail ?_ (.join k .rebind _ (by simpa using hj))
        exact .single (.rebind k _ (by simpa using hf))

theorem startDraining_changes (k : ApId) (s : State)
    (h : (s.ap k).state.serves = true ∨ (s.ap k).state = .faulted) : Changes .command s (startDraining k s) :=
  .trans (.single (.retire k h)) (drainTest_changes k _)

/-- Cancelling a job changes no aperture. -/
theorem cancelJob_apertures (k : ApId) (s : State) : (cancelJob k s).apertures = s.apertures := by
  simp only [cancelJob]
  split <;> rfl

theorem post_apertures (p : Report) (s : State) : (post p s).apertures = s.apertures := by
  unfold post
  split <;> rfl

theorem retire_changes (k : ApId) (s t : State) (h : retire k s = some t) : Changes .command s t := by
  simp only [retire] at h
  split at h <;> cases h
  · rename_i hs
    refine .tail ?_ (.post _)
    refine .tail ?_ (.post _)
    refine .tail (cancelJob_changes command_ne_owner k s) (.unload command_ne_owner k ?_)
    rw [ap_congr (cancelJob_apertures k s)]
    exact hs
  · rename_i hs
    exact startDraining_changes k s (.inl (by rw [hs]; rfl))
  · rename_i hs
    refine .trans ?_ (startDraining_changes k _ (.inl ?_))
    · exact .tail (cancelJob_changes command_ne_owner k s) (.post _)
    · rw [ap_congr (post_apertures _ _), ap_congr (cancelJob_apertures k s), hs]
      rfl
  · rename_i hs
    refine .trans (clearMarks_changes k s) (startDraining_changes k _ (.inl ?_))
    rw [ap_congr (clearMarks_apertures k s), hs]
    rfl
  · rename_i hs
    exact startDraining_changes k s (.inr hs)

theorem retireFrame_changes (args : List Byte) (s : State) : Changes .command s (retireFrame args s) := by
  refine takeCommand_changes _ _ _ _ _ s fun u => withId_changes _ _ _ u fun k => ?_
  unfold retireAperture
  split
  · rename_i t ht
    exact .trans (.trans (retire_changes k u t ht) (runValidation_changes command_ne_owner t)) (answerOk_changes _ _)
  · exact answer_changes _ _ _ u

theorem setAccessFrame_changes (args : List Byte) (s : State) : Changes .command s (setAccessFrame args s) := by
  refine takeCommand_changes _ _ _ _ _ s fun u => withId_changes _ _ _ u fun k => ?_
  split
  · exact .trans (.single (.access k args)) (answerOk_changes _ _)
  · exact answer_changes _ _ _ u

theorem queryFrame_changes (args : List Byte) (s : State) : Changes .command s (queryFrame args s) :=
  takeCommand_changes _ _ _ _ _ s fun u => withId_changes _ _ _ u fun _ => answer_changes _ _ _ u

theorem forget_changes (k : ApId) (s : State) : Changes .command s (forget k s) :=
  .trans (.single (.invalidate _)) (updAp_keeps k _ _ ⟨⟨rfl, rfl, rfl, rfl, rfl, rfl, le_max_right _ _⟩, rfl, rfl⟩)

theorem invalidateFrame_changes (args : List Byte) (s : State) : Changes .command s (invalidateFrame args s) := by
  refine takeCommand_changes _ _ _ _ _ s fun u => ?_
  split
  · refine .trans ?_ (answerOk_changes _ _)
    exact .tail (.single (.invalidate _)) .forget
  · exact withId_changes _ _ _ u fun k => .trans (forget_changes k u) (answerOk_changes _ _)

theorem popReportFrame_changes (args : List Byte) (s : State) : Changes .command s (popReportFrame args s) := by
  refine takeCommand_changes _ _ _ _ _ s fun u => ?_
  split
  · rename_i p ps hr
    refine .trans ?_ (answer_changes _ _ _ _)
    have : ps = u.reports.tail := by rw [hr]; rfl
    subst this
    exact .single .pop
  · exact answer_changes _ _ _ u

theorem startQuiescing_changes (s : State) : Changes .command s (startQuiescing s) := by
  simp only [startQuiescing]
  refine .trans ?_ (reofferIfLeft_changes _ _)
  refine .trans ?_ (freeSlots_changes _ _)
  exact .trans (.single .quiesce) (cancelAllJobs_changes command_ne_owner _)

theorem resetFrame_changes (args : List Byte) (s : State) : Changes .command s (resetFrame args s) :=
  takeCommand_changes _ _ _ _ _ s fun u =>
    .trans (.trans (startQuiescing_changes u) (answerOk_changes _ _)) (offerTags_changes command_ne_owner _)

theorem fetchFrame_changes (n c : Byte) (k : Nat) (s : State) : Changes .command s (fetchFrame n c k s) := by
  simp only [fetchFrame]
  split
  · exact .refl
  · exact drive_changes _ s

theorem shortFetch_changes (n : Nat) (s : State) : Changes .command s (shortFetch n s) := by
  unfold shortFetch
  split
  · exact .refl
  · exact driveFrame_changes n s

theorem rejectFrame_changes (n : Nat) (v : Byte) (a : Answer) (s : State) :
    Changes .command s (rejectFrame n v a s) := by
  unfold rejectFrame
  split
  · exact .refl
  · exact .trans (driveFrame_changes n s) (answer_changes _ _ _ _)

theorem if_changes {p : Prop} [Decidable p] {s t u : State} (h : Changes .command s t) (h' : Changes .command s u) :
    Changes .command s (if p then t else u) := by
  split
  · exact h
  · exact h'

theorem commandByCode_changes (v : Byte) (args : List Byte) (s : State) :
    Changes .command s (commandByCode v args s) := by
  unfold commandByCode
  refine if_changes (identFrame_changes _ s) ?_
  refine if_changes (getStatusFrame_changes _ s) ?_
  refine if_changes (setGlobalFrame_changes _ s) ?_
  refine if_changes (setRequesterFrame_changes _ s) ?_
  refine if_changes (getRequesterFrame_changes _ s) ?_
  refine if_changes (loadFrame_changes _ s) ?_
  refine if_changes (rebindFrame_changes _ s) ?_
  refine if_changes (retireFrame_changes _ s) ?_
  refine if_changes (setAccessFrame_changes _ s) ?_
  refine if_changes (queryFrame_changes _ s) ?_
  refine if_changes (invalidateFrame_changes _ s) ?_
  refine if_changes (popReportFrame_changes _ s) ?_
  refine if_changes (resetFrame_changes _ s) ?_
  exact rejectFrame_changes _ _ _ s

theorem completeFrame_changes (v : Byte) (args : List Byte) (c : Byte) (s : State) :
    Changes .command s (completeFrame v args c s) := by
  unfold completeFrame
  split
  · exact commandByCode_changes _ _ s
  · exact rejectFrame_changes _ _ _ s

theorem takeBytes_changes (bs : List Byte) (s : State) : Changes .command s (takeBytes bs s) := by
  unfold takeBytes
  split
  · exact .refl
  · split
    · exact shortFetch_changes 1 s
    · exact rejectFrame_changes _ _ _ s
  · split
    · split
      · exact shortFetch_changes 2 s
      · exact fetchFrame_changes _ _ _ s
    · split
      · exact rejectFrame_changes _ _ _ s
      · exact completeFrame_changes _ _ _ s

/-! ### Every command -/

/-- A meaning's event, begun with nothing driven. -/
theorem next_changes {f : State → State} {s t : State}
    (h : (Host.Outcome.next (f (beginEvent s)) : Host.Outcome State Fault Refusal) = .next t)
    (hf : ∀ u, Changes .command u (f u)) : Changes .command s t := by
  cases h
  exact .trans (beginEvent_changes s) (hf _)

/-- Whatever a command does is a chain of changes. -/
theorem exec_changes (i : Instr) (s t : State) (h : exec i s = .next t) : Changes .command s t := by
  cases i with
  | write r a len lanes en => exact next_changes h fun u => writePresented_changes _ _ _ _ u
  | read r a len => exact next_changes h fun u => readPresented_changes _ _ _ u
  | sync r => exact next_changes h fun u => syncPresented_changes _ u
  | unassignedKind r =>
    refine next_changes (f := fun u => if u.resetLow then respond busRetry u else refuse r .malformed u) h ?_
    intro u
    split
    · exact respond_changes _ u
    · exact refuse_changes _ _ u
  | responseOk t lanes =>
    refine next_changes (f := fun u => if u.resetLow then responseInReset t u
      else takeResponse t (fun op s => opOk op lanes s) u) h ?_
    intro u
    split
    · exact responseInReset_changes t u
    · exact takeResponse_changes t _ u fun op _ =>
        .trans (.single (.freeTag command_ne_owner t)) (opOk_changes command_ne_owner _ _ _)
  | responseBusy t =>
    refine next_changes (f := fun u => if u.resetLow then responseInReset t u
      else takeResponse t (opBusy t) u) h ?_
    intro u
    split
    · exact responseInReset_changes t u
    · exact takeResponse_changes t _ u fun op ho => opBusy_changes t op u ho
  | responseError t code =>
    refine next_changes (f := fun u => if u.resetLow then responseInReset t u
      else takeResponse t (fun op s => opFailed op .memoryError t s) u) h ?_
    intro u
    split
    · exact responseInReset_changes t u
    · exact takeResponse_changes t _ u fun op _ =>
        .trans (.single (.freeTag command_ne_owner t)) (opFailed_changes command_ne_owner _ _ _ _)
  | responseTimeout t => exact next_changes h fun u => expireTag_changes t u
  | discardExpiry n => exact next_changes h fun u => expireSlot_changes n u
  | backoffEnd o =>
    refine next_changes (f := fun u => if inBackoff o u then
      resumeOps { u with parked := u.parked.map fun p => if p.op.owner == some o then { p with waiting := true } else p }
      else u) h ?_
    intro u
    split
    · refine .trans (.single (.backoffs _ ?_)) (resumeOps_changes _)
      intro p _
      split <;> rfl
    · exact .refl
  | tick =>
    refine next_changes (f := fun u => if u.resetLow then u else produceTick u) h ?_
    intro u
    split
    · exact .refl
    · exact produceTick_changes u
  | fetch n c k => exact next_changes h fun u => fetchFrame_changes _ _ _ u
  | ident args => exact next_changes h fun u => identFrame_changes args u
  | getStatus args => exact next_changes h fun u => getStatusFrame_changes args u
  | setGlobal args => exact next_changes h fun u => setGlobalFrame_changes args u
  | getRequester args => exact next_changes h fun u => getRequesterFrame_changes args u
  | setRequester args => exact next_changes h fun u => setRequesterFrame_changes args u
  | load args => exact next_changes h fun u => loadFrame_changes args u
  | rebind args => exact next_changes h fun u => rebindFrame_changes args u
  | retire args => exact next_changes h fun u => retireFrame_changes args u
  | setAccess args => exact next_changes h fun u => setAccessFrame_changes args u
  | query args => exact next_changes h fun u => queryFrame_changes args u
  | invalidate args => exact next_changes h fun u => invalidateFrame_changes args u
  | popReport args => exact next_changes h fun u => popReportFrame_changes args u
  | reset args => exact next_changes h fun u => resetFrame_changes args u
  | incompleteFrame bs => exact next_changes h fun u => takeBytes_changes bs u
  | unknownCommand v args =>
    refine next_changes (f := fun u => if v = 0x00
      then fetchFrame (BitVec.ofNat 8 args.length) (frameCrc v args) args.length u
      else completeFrame v args (frameCrc v args) u) h ?_
    intro u
    split
    · exact fetchFrame_changes _ _ _ u
    · exact completeFrame_changes _ _ _ u
  | hardwareReset => cases h; exact .single .hardReset
  | resetnRelease =>
    refine next_changes (f := fun u => if u.resetLow then { u with resetLow := false, tickCounter := 0 } else u) h ?_
    intro u
    split
    · exact .single (.clock 0 false)
    · exact .refl
  | softResetComplete => exact next_changes h fun u => softResetTest_changes command_ne_owner u
  | drainComplete k => exact next_changes h fun u => drainTest_changes k u
  | settlingEnd k => exact next_changes h fun u => settleTest_changes k u
  | entryLeave r =>
    refine next_changes (f := fun u => if (head r u).elim false PostEntry.mayLeave then offerTags (leaveAll r u) else u)
      h ?_
    intro u
    split
    · exact .trans (leaveAll_changes r u) (offerTags_changes command_ne_owner _)
    · exact .refl
  | entryEligible r =>
    refine next_changes (f := fun u => if (head r u).elim false (·.state == .ready) then offerTags (leaveAll r u) else u)
      h ?_
    intro u
    split
    · exact .trans (leaveAll_changes r u) (offerTags_changes command_ne_owner _)
    · exact .refl
  | fenceMet n =>
    refine next_changes (f := fun u => if fenceDue n u then offerTags (meetFence n u) else u) h ?_
    intro u
    split
    · exact .trans (meetFence_changes n u) (offerTags_changes command_ne_owner _)
    · exact .refl
  | arbiterGrant => exact next_changes h fun u => grants_changes command_ne_owner 12 u
  | walkStart => exact next_changes h fun u => startWalks_changes command_ne_owner u
  | jobStart => exact next_changes h fun u => runValidation_changes command_ne_owner u
  | validationReadIssue =>
    exact next_changes (f := fun u => issueLine (issueLine u)) h fun u =>
      .trans (issueLine_changes command_ne_owner u) (issueLine_changes command_ne_owner _)
  | unqueuedReoffer =>
    exact next_changes (f := fun u => offerTags (reoffer u)) h fun u =>
      .trans (reoffer_changes u) (offerTags_changes command_ne_owner _)
  | badFrame v args c =>
    refine next_changes (f := fun u => if v = 0x00 then fetchFrame (BitVec.ofNat 8 args.length) c args.length u
      else completeFrame v args c u) h ?_
    intro u
    split
    · exact fetchFrame_changes _ _ _ u
    · exact completeFrame_changes _ _ _ u

/-- Whatever a step does is the taking of the front command off the queue and a chain of changes. -/
theorem step_changes (s t : State) (h : step s = .next t) : Changes .command { s with pending := s.pending.tail } t := by
  unfold step at h
  split at h
  · next e => rw [e]; exact exec_changes _ _ _ h
  · next e =>
    cases h
    have : { s with pending := s.pending.tail } = s := by rw [e]; cases s; cases e; rfl
    rw [this]
    exact clockCycle_changes s

end Sys2Proof.Machine
end

