-- ==== Sys2Proof/Tests/Slice0.lean ====
section
/-! SUPPORT. The tests: ill-formed commands refused, the manual's worked figures, one or two small events of each command,
and, for each statement with hypotheses, a state and operands that meet them. -/

set_option Elab.async false

namespace Sys2Proof.Tests

open Sys2Proof Sys2Proof.Machine Sys2Proof.Claims

/-! ## Well-formedness: each check refuses something -/

theorem test_wf_error_code : (Instr.responseError 4 1).wf = false ∧ (Instr.responseError 4 2).wf = true := by decide
theorem test_wf_arguments :
    (Instr.ident (List.replicate 256 0)).wf = false ∧ (Instr.ident (List.replicate 255 0)).wf = true := by
  decide +kernel
theorem test_wf_incomplete_empty : (Instr.incompleteFrame []).wf = false := by decide
theorem test_wf_incomplete_whole : (Instr.incompleteFrame [1, 0, 0x15]).wf = false := by decide
theorem test_wf_unknown_code :
    (Instr.unknownCommand 0x10 []).wf = false ∧ (Instr.unknownCommand 0x06 []).wf = true := by decide
theorem test_wf_bad_frame_crc : (Instr.badFrame 1 [] 0x15).wf = false ∧ (Instr.badFrame 1 [] 0x14).wf = true := by
  decide +kernel
theorem test_wf_bad_frame_fetch : (Instr.badFrame 0 [] 1).wf = false := by decide
theorem test_wf_backoff_line : (Instr.backoffEnd (.line 1025)).wf = false := by decide
theorem test_wf_backoff_piece : (Instr.backoffEnd (.piece (.slot 0) 4)).wf = false := by decide

/-! ## Small states -/

/-- What a command leaves. -/
def after (i : Instr) (s : State) : State :=
  match exec i s with
  | .next t => t
  | _ => s

/-- Sixteen bytes of list memory (R176). -/
def entryBytes (target units kind tag : Nat) : List Byte :=
  leBytes 5 target ++ leBytes 3 units ++ [toByte kind, toByte tag, 1, 0, 0, 0, 0, 0]

/-- An ACTIVE aperture with a window of 16 pages, 12 of them mapped, open to every requester. -/
def active : Aperture where
  state := .active
  windowBase := 0x1000000000
  windowSize := 0x10000
  listAddress := 0x40030
  entryCount := 5
  listTag := 0x5A
  mappedLength := 0xC000
  readAllowed := true
  writeAllowed := true
  mask := 0xFFFF

/-- The reset state with aperture 3 so, and its first checkpoint. -/
def open3 (a : Aperture) : State :=
  setPlaces 3 ((Vector.replicate 32 none).set 0 (some 0)) (setAp 3 a State.reset)

/-- A cached first extent of aperture 3, of a kind. -/
def cached3 (k : ExtentKind) : State :=
  setCached 5 { valid := true, aperture := 3, start := 0, length := 0x3000, target := 0x80000000, kind := k, rank := 5 }
    (open3 active)

/-- A pass-through post entry of requester 2, in flight. -/
def issuedEntry : PostEntry where
  core := { requester := 2, address := 0x20000000, length := 8, place := none
            pieces := [wholePiece 0x20000000 8 .issued], age := 0 }
  sequence := 1
  data := List.replicate 8 0xAB
  state := .issued

/-- Its operation. -/
def writeOp2 : Op where
  cls := .data
  owner := some (.piece (.entry 2 1) 0)
  kind := .mwrite
  address := 0x20000000
  length := 8
  data := List.replicate 8 0xAB
  timer := 64
  fields := { requester := some 2, sequence := some 1, address := some 0x20000000 }

/-- One write in flight under tag 4, a SYNC mark on it. -/
def writing : State :=
  setTag 4 (.outstanding writeOp2)
    (updReq 2 (fun q => { q with taken := 1, queuedWrites := 1, mark := some (1, false) })
      { State.reset with postQueue := [issuedEntry], nextAge := 1 })

/-- A pass-through slot of requester 5 in a state, with its piece in another. -/
def readSlot (st : SlotState) (x : PieceState) : Slot where
  core := { requester := 5, address := 0x30000040, length := 4, place := none
            pieces := [wholePiece 0x30000040 4 x], age := 0 }
  fence := 0
  fenceMet := true
  state := st

/-- Its operation. -/
def readOp5 : Op where
  cls := .data
  owner := some (.piece (.slot 7) 0)
  kind := .mread
  address := 0x30000040
  length := 4
  timer := 64
  fields := { requester := some 5, address := some 0x30000040 }

/-- A state whose slot 7 is occupied. -/
def slotted (c : Slot) : State :=
  updReq 5 (fun q => { q with openSlots := 1 }) (setSlot 7 (some c) { State.reset with nextAge := 1 })

/-- One read in flight under tag 15. -/
def reading : State := setTag 15 (.outstanding readOp5) (slotted (readSlot .reading .issued))

/-- A slot that is READY, its discard timer running. -/
def readyState : State :=
  slotted { readSlot .ready (.read [1, 2, 3, 4]) with data := [1, 2, 3, 4], timer := some 32 }

/-- A walk of aperture 3 on engine 1, at entry 0, and its request. -/
def walk3 : Walk where
  engine := 1
  listAddress := 0x40030
  entryCount := 5
  listTag := 0x5A
  stride := 1
  index := 0
  offset := 0
  startIndex := 0

def request3 : WalkRequest where
  aperture := 3
  generation := 0
  target := 0x2FFF
  walk := some walk3
  waiters := []

def walkOp3 : Op where
  cls := .walk
  owner := some (.walk 1)
  kind := .mread
  address := 0x40030
  length := 16
  timer := 64
  fields := { aperture := some 3, generation := some 0, extentIndex := some 0 }

/-- The walk in flight under tag 1. -/
def walking (a : Aperture) : State :=
  setTag 1 (.outstanding walkOp3) { open3 a with missQueue := [request3] }

/-- The lanes of a good first entry, and of one that is not valid. -/
def goodLine : Lanes := lanesOfBytes 0x40030 (entryBytes 0x80000000 0x300 0 0x5A)
def badLine : Lanes := 0

/-- A job of aperture 3 for a list of one entry, running. -/
def job3 (p : Purpose) : Job where
  aperture := 3
  purpose := p
  list := { address := 0x40030, count := 1, tag := 0x5A }
  running := true

def lineOp3 : Op where
  cls := .validation
  owner := some (.line 0)
  kind := .mread
  address := 0x40030
  length := 16
  timer := 64
  fields := { aperture := some 3, extentIndex := some 0 }

/-- Its only line in flight under tag 2. -/
def validating (a : Aperture) (p : Purpose) : State :=
  setTag 2 (.outstanding lineOp3)
    { open3 a with jobs := [job3 p], validation := some (firstRecord { address := 0x40030, count := 1, tag := 0x5A } 1) }

/-- A running job with two lines issued and not processed, the first in flight under tag 2. -/
def fullJob : State :=
  setTag 2 (.outstanding lineOp3) { open3 active with
    jobs := [{ job3 .load with list := { address := 0x40030, count := 20, tag := 0x5A } }]
    validation := some (firstRecord { address := 0x40030, count := 20, tag := 0x5A } 2) }

/-- A state with an operation in BACKOFF. -/
def backedOff (op : Op) (s : State) : State := { s with parked := [{ op := op, waiting := false }] }

/-- Every data tag but one QUARANTINED. -/
def scarce (s : State) : State :=
  { s with tags := Vector.ofFn fun i : Fin 16 => if 4 ≤ i.val ∧ i.val < 15 then .quarantined {} else s.tag i }

/-- Every data tag QUARANTINED. -/
def starved (s : State) : State :=
  { s with tags := Vector.ofFn fun i : Fin 16 => if 4 ≤ i.val then .quarantined {} else s.tag i }

/-! ## The manual's figures and small events -/

/-- R166: the CRC-8 of "123456789". -/
theorem test_crc : crc8 [0x31, 0x32, 0x33, 0x34, 0x35, 0x36, 0x37, 0x38, 0x39] = 0xF4 := by decide +kernel

/-- Section 10.8: the IDENT frame is 01 00 15. -/
theorem test_ident_frame : frameCrc 0x01 [] = 0x15 := by decide +kernel

/-- R29: strides of the manual's list sizes. -/
theorem test_strides : strideOf 32 = 1 ∧ strideOf 33 = 2 ∧ strideOf 100 = 4 ∧ strideOf 4096 = 128 := by decide

/-- A good entry of R176 passes R8; a length of 0 does not. -/
theorem test_entry :
    checkEntry 0x5A (decodeEntry (entryBytes 0x80000000 0x300 0 0x5A)) = none ∧
    checkEntry 0x5A (decodeEntry (entryBytes 0x80000000 0 0 0x5A)) = some .zeroLength := by decide +kernel

theorem test_write_taken :
    (after (.write 9 0x20000000 8 0 0) State.reset).out.bus = some { code := .taken } ∧
    (after (.write 9 0x20000000 8 0 0) State.reset).out.mem.map (fun m => (m.tag, m.address)) = [(4, 0x20000000)] := by
  decide +kernel
theorem test_write_crossing_a_line :
    (after (.write 9 0x2000003F 2 0 0) State.reset).out.bus = some { code := .refused .malformed } := by decide +kernel
theorem test_read_opens_and_issues :
    (after (.read 9 0x20000000 8) State.reset).out.bus = some { code := .retry } ∧
    (after (.read 9 0x20000000 8) State.reset).out.mem.map (·.kind) = [.mread] := by decide +kernel
theorem test_read_collects :
    (after (.read 5 0x30000040 4) readyState).out.bus = some { code := .data, lanes := 0x04030201 } := by decide +kernel
theorem test_sync_done : (after (.sync 2) State.reset).out.bus = some { code := .done } := by decide +kernel
theorem test_sync_retry_sets_the_mark :
    ((after (.sync 2) (updReq 2 (fun q => { q with taken := 9, queuedWrites := 3 }) State.reset)).req 2).mark =
      some (9, false) := by decide +kernel
theorem test_unassigned_kind_counts : ((after (.unassignedKind 2) State.reset).req 2).refusedCount = 1 := by
  decide +kernel
theorem test_ok_completes : ((after (.responseOk 4 0) writing).req 2).mark = some (1, true) := by decide +kernel
theorem test_ok_reads : ((after (.responseOk 15 0x04030201) reading).slot 7).map (·.data) = some [1, 2, 3, 4] := by
  decide +kernel
theorem test_busy_parks : (after (.responseBusy 4) writing).parked.map (·.op.retries) = [1] := by decide +kernel
theorem test_error_loses :
    (after (.responseError 4 2) writing).reports.map (fun p => (p.kind, p.cause, p.tag)) =
      [(.writeLost, some .memoryError, some 4)] := by decide +kernel
theorem test_timeout_quarantines :
    (after (.responseTimeout 4) writing).tag 4 = .quarantined writeOp2.fields := by decide +kernel
theorem test_discard :
    (after (.discardExpiry 7) readyState).reports.map (fun p => (p.kind, p.cause)) = [(.readDiscarded, none)] := by
  decide +kernel
theorem test_backoff_end :
    (after (.backoffEnd (.piece (.entry 2 1) 0)) (backedOff writeOp2 (setTag 4 .free writing))).tag 4 =
      .outstanding writeOp2 := by decide +kernel
theorem test_tick_lowers :
    (after .tick writing).tag 4 = .outstanding { writeOp2 with timer := 63 } := by decide +kernel
/-- 0xFF is driven while a FETCH frame's own bytes are clocked in, however few (R165, R167). -/
theorem test_short_fetch :
    (after (.incompleteFrame [0x00]) State.reset).out.mgt = [0xFF] ∧
    (after (.incompleteFrame [0x00, 0x00]) State.reset).out.mgt = [0xFF, 0xFF] := by decide +kernel
theorem test_fetch_none_pending : (after (.fetch 0 0 5) State.reset).out.mgt =
    [0xFF, 0xFF, 0xFF, 6, 0, 0, crc8 [6, 0, 0], 0xFF] := by
  decide +kernel
theorem test_ident : ((after (.ident []) State.reset).response.map (·.results)) = some [0x16, 1, 16, 32, 16, 8, 16] := by
  decide +kernel
theorem test_get_status :
    ((after (.getStatus [1]) { writing with dropped := 7 }).response.map (·.results)) =
      some [0, 0, 7, 1, 0, 0, 0, 1, 0] ∧ (after (.getStatus [1]) { writing with dropped := 7 }).dropped = 0 := by
  decide +kernel
theorem test_set_global :
    (after (.setGlobal [63, 255, 1, 1]) State.reset).settings =
      { retryBudget := 63, responseLimit := 255, discardInterval := 1, attention := true } := by decide +kernel
theorem test_get_requester :
    ((after (.getRequester [2]) writing).response.map (·.results)) = some [2, 5, 4, 2, 0, 0, 0, 1, 0, 1, 1, 0] := by
  decide +kernel
theorem test_set_requester :
    ((after (.setRequester [2, 2, 16, 4, 1]) State.reset).req 2).readFailureMode = .ones := by decide +kernel

/-- The LOAD of Chapter 11's figures: 16 pages at 0x10_0000_0000, a list of 5 entries at 0x4_0030. -/
def load3 : List Byte :=
  [3] ++ leBytes 5 0x1000000000 ++ leBytes 3 16 ++ leBytes 5 0x40030 ++ leBytes 2 5 ++ [0x5A, 3, 0xFF, 0xFF]

theorem test_load_reads_its_list :
    (after (.load load3) State.reset).out.mem.map (fun m => (m.tag, m.address, m.length)) =
      [(2, 0x40030, 16), (3, 0x40040, 64)] := by decide +kernel
theorem test_load_overlap :
    ((after (.load (4 :: load3.tail)) (after (.load load3) State.reset)).response.map (·.answer)) = some .overlap := by
  decide +kernel
theorem test_rebind :
    ((after (.rebind ([3] ++ leBytes 5 0x50000 ++ [3, 0, 0x5B])) (open3 active)).ap 3).state = .rebinding .validating := by
  decide +kernel
theorem test_retire : (after (.retire [3]) (open3 active)).reports.map (·.kind) = [.retireDone] := by decide +kernel
theorem test_set_access : ((after (.setAccess [3, 2, 4, 0]) (open3 active)).ap 3).mask = 4 := by decide +kernel
theorem test_query : (after (.query [3]) (open3 active)).response.map (·.results.length) = some 47 := by decide +kernel
theorem test_invalidate : ((after (.invalidate [0xFF]) (cached3 .map)).cached 5).valid = false := by decide +kernel
theorem test_pop_empty : (after (.popReport []) State.reset).response.map (·.answer) = some .empty := by decide +kernel
theorem test_reset_at_once : (after (.reset []) State.reset).reports.map (·.kind) = [.resetDone] := by decide +kernel
theorem test_incomplete_frame :
    (after (.incompleteFrame [0x20]) State.reset).response = some { answer := .badFrame, command := 0x20 } := by
  decide +kernel
theorem test_unknown_command :
    (after (.unknownCommand 0x3D [1]) State.reset).response.map (·.answer) = some .unknownCommand := by decide +kernel
theorem test_bad_frame : (after (.badFrame 0x3C [] 0) writing).quiescing = false := by decide +kernel
theorem test_hardware_reset : (after .hardwareReset writing).postQueue = [] := by decide +kernel
theorem test_resetn_release : (after .resetnRelease (after .hardwareReset writing)).resetLow = false := by decide +kernel
theorem test_soft_reset : (after .softResetComplete { State.reset with quiescing := true }).quiescing = false := by
  decide +kernel
theorem test_drain_complete :
    ((after (.drainComplete 3) (open3 { active with state := .draining })).ap 3).state = .free := by decide +kernel
theorem test_settling_end :
    (after (.settlingEnd 3) (open3 { active with state := .rebinding .settling })).reports.map (·.kind) =
      [.rebindDone] := by decide +kernel
theorem test_entry_leave :
    ((after (.entryLeave 2) { writing with postQueue := [{ issuedEntry with state := .done }] }).req 2).completed = 1 := by
  decide +kernel
theorem test_walk_start :
    (after .walkStart { open3 active with missQueue := [{ request3 with walk := none }] }).out.mem.map
      (fun m => (m.tag, m.address, m.length)) = [(0, 0x40030, 16)] := by decide +kernel
theorem test_find_is_cached : lookup 3 0 0x2FFF (after (.responseOk 1 goodLine) (walking active)) = some 31 := by
  decide +kernel
theorem test_finding_faults : ((after (.responseOk 1 badLine) (walking active)).ap 3).state = .faulted := by
  decide +kernel


/-! ## Witnesses: for each statement with hypotheses, a state and operands that meet them -/

/-- The reset state is idle. -/
theorem idle_reset : Idle State.reset := ⟨by decide, by decide, by decide, by decide +kernel, by decide, by decide, by decide, by decide⟩

/-- A state with traffic nowhere waits for nothing. -/
theorem nothing_waits {s : State} (h1 : s.quiescing = false) (h2 : s.missQueue = []) (h3 : s.jobs = [])
    (h4 : waitingWrite s = none) (h5 : waitingRead s = none) : NothingWaits s :=
  ⟨h1, (by rw [h2]; intro _ h; cases h), .inl h3, h4, h5⟩

theorem disjoint_of_one {s : State} (h : ∀ k : ApId, k ≠ 3 → (s.ap k).state = .free) : windowsDisjoint s := by
  intro j k hjk hj hk
  by_cases e : j = 3
  · by_cases e' : k = 3
    · exact absurd (e.trans e'.symm) hjk
    · simp [Aperture.claims, h k e'] at hk
  · simp [Aperture.claims, h j e] at hj

theorem witness_StepRunsTheFrontCommand :
    State.reset.pending = [] ∧ State.reset.resetLow = false ∧ State.reset.tickCounter < 1023 ∧
    (let s : State := { State.reset with tickCounter := 1023 }; s.pending = [] ∧ s.resetLow = false ∧ 1023 ≤ s.tickCounter) ∧
    (let s : State := { State.reset with resetLow := true }; s.pending = [] ∧ s.resetLow = true) := by decide +kernel

theorem witness_ResetsSetEveryBlock :
    ({ State.reset with resetLow := true } : State).resetLow = true ∧ State.reset.resetLow = false ∧
    (let s : State := { State.reset with quiescing := true }
     s.quiescing = true ∧ s.postQueue = [] ∧ ∀ t op, s.tag t ≠ .outstanding op) ∧
    State.reset.quiescing = false ∧ writing.postQueue ≠ [] ∧ ∃ t op, writing.tag t = .outstanding op := by
  refine ⟨by decide, by decide, ⟨by decide, by decide, ?_⟩, by decide, by decide +kernel, 4, writeOp2, by decide +kernel⟩
  intro t op
  have : (State.reset.tag t) = .free := by revert t; decide +kernel
  intro h
  exact TagState.noConfusion (this.symm.trans h)

theorem witness_SyncWithoutMark :
    (let s := State.reset
     s.resetLow = false ∧ s.quiescing = false ∧ (s.req 2).enabled = true ∧ (s.req 2).mark = none ∧
      (s.req 2).queuedWrites = 0 ∧ (s.req 2).lossFlag = false) ∧
    (let s := updReq 2 (fun q => { q with lossFlag := true }) State.reset
     s.resetLow = false ∧ s.quiescing = false ∧ (s.req 2).enabled = true ∧ (s.req 2).mark = none ∧
      (s.req 2).queuedWrites = 0 ∧ (s.req 2).lossFlag = true) ∧
    (let s := updReq 2 (fun q => { q with queuedWrites := 1 }) State.reset
     s.resetLow = false ∧ s.quiescing = false ∧ (s.req 2).enabled = true ∧ (s.req 2).mark = none ∧
      0 < (s.req 2).queuedWrites) := by decide +kernel

theorem witness_SyncWithMark :
    (let s := writing
     s.resetLow = false ∧ s.quiescing = false ∧ (s.req 2).enabled = true ∧ (s.req 2).mark = some (1, false)) ∧
    (let s := updReq 2 (fun q => { q with mark := some (255, true) }) writing
     s.resetLow = false ∧ s.quiescing = false ∧ (s.req 2).enabled = true ∧ (s.req 2).mark = some (255, true) ∧
      (s.req 2).lossFlag = false) ∧
    (let s := updReq 2 (fun q => { q with mark := some (255, true), lossFlag := true }) writing
     s.resetLow = false ∧ s.quiescing = false ∧ (s.req 2).enabled = true ∧ (s.req 2).mark = some (255, true) ∧
      (s.req 2).lossFlag = true) := by decide +kernel

theorem witness_MalformedAndDisabledAreRefused :
    State.reset.resetLow = false ∧ (0 : BitVec 7).toNat = 0 ∧ 64 < (65 : BitVec 7).toNat ∧
    64 < (63 : Addr).toNat % 64 + (2 : BitVec 7).toNat ∧
    ((updReq 2 (fun q => { q with enabled := false }) State.reset).req 2).enabled = false ∧
    1 ≤ (1 : BitVec 7).toNat ∧ (63 : Addr).toNat % 64 + (1 : BitVec 7).toNat ≤ 64 := by decide +kernel

/-- An aperture's window holds its last byte and a requester may use it. -/
theorem witness_TheWindowDecides :
    (∀ a ∈ [{ active with state := .loading }, { active with state := .draining }, { active with state := .faulted },
        active, { active with state := .rebinding .settling }],
      Passes 2 0x100000FFFF (1 : BitVec 7).toNat (open3 a) ∧ (open3 a).quiescing = false ∧
      windowsDisjoint (open3 a) ∧ Unmatched 2 0x100000FFFF 1 (open3 a) ∧ Inside 0x100000FFFF 3 (open3 a)) ∧
    ¬Permitted true 2 { active with mask := 0 } ∧ ¬Permitted false 2 { active with readAllowed := false } ∧
    Permitted true 2 active ∧ Permitted false 2 active ∧
    active.mappedLength < (0x100000C000 : Addr).toNat - active.windowBase.toNat + (1 : BitVec 7).toNat ∧
    Outside 0x1000010000 (open3 active) ∧
    ((updReq 2 (fun q => { q with confined := true }) (open3 active)).req 2).confined = true := by
  refine ⟨?_, by unfold Permitted; decide, by unfold Permitted; decide, by unfold Permitted; decide,
    by unfold Permitted; decide, by decide, ?_, by decide +kernel⟩
  · intro a ha
    simp only [List.mem_cons, List.not_mem_nil, or_false] at ha
    have hs : ∀ n : SlotId, (open3 a).slot n = none := by
      rcases ha with rfl | rfl | rfl | rfl | rfl <;> decide +kernel
    refine ⟨⟨?_, by decide +kernel, ?_⟩, ?_, disjoint_of_one ?_, ?_, ?_⟩
    · rcases ha with rfl | rfl | rfl | rfl | rfl <;> rfl
    · rcases ha with rfl | rfl | rfl | rfl | rfl <;> decide +kernel
    · rcases ha with rfl | rfl | rfl | rfl | rfl <;> rfl
    · rcases ha with rfl | rfl | rfl | rfl | rfl <;> decide +kernel
    · intro n c h; rw [hs n] at h; cases h
    · unfold Inside; rcases ha with rfl | rfl | rfl | rfl | rfl <;> decide +kernel
  · unfold Outside Inside; decide +kernel

/-- A request of 8 bytes passes at 0x2000_0000, and one through the window of aperture 3 at offset 0x2FC0. -/
theorem admitted_pass (w : Bool) (r : ReqId) : Admitted w r 0x20000000 8 none State.reset :=
  ⟨⟨by decide, by decide +kernel, by revert r; decide +kernel⟩, by decide, disjoint_of_one (by decide +kernel),
    by unfold Outside Inside; decide +kernel, by revert r; decide +kernel⟩

theorem admitted_window (w : Bool) (k : ExtentKind) :
    Admitted w 2 0x1000002FC0 64 (some { aperture := 3, offset := 0x2FC0 }) (cached3 k) := by
  refine ⟨⟨by cases k <;> rfl, by decide +kernel, by cases k <;> decide +kernel⟩, by cases k <;> rfl,
    disjoint_of_one (by cases k <;> decide +kernel), ?_⟩
  unfold Course Inside Permitted
  cases w <;> cases k <;> decide +kernel

theorem unmatched_of_empty {s : State} (h : ∀ n : SlotId, s.slot n = none) (r : ReqId) (a : Addr) (n : Nat) :
    Unmatched r a n s := by
  intro m c hc
  rw [h m] at hc
  cases hc

theorem witness_QuiescingAndNoRoomAreRetried :
    (let s : State := { State.reset with quiescing := true }
     s.resetLow = false ∧ s.quiescing = true ∧ (s.req 2).enabled = true ∧ Passes 2 0x20000000 8 s ∧
      Unmatched 2 0x20000000 8 s) ∧
    (let s := updReq 2 (fun q => { q with queuedWrites := 4 }) State.reset
     Admitted true 2 0x20000000 8 none s ∧ ¬WriteRoom 2 s) ∧
    (let s : State := { State.reset with postQueue := List.replicate 16 issuedEntry }
     Admitted true 2 0x20000000 8 none s ∧ ¬WriteRoom 2 s) ∧
    (let s := updReq 2 (fun q => { q with openSlots := 2 }) State.reset
     Admitted false 2 0x20000000 8 none s ∧ Unmatched 2 0x20000000 8 s ∧ ¬ReadRoom 2 s) := by
  refine ⟨⟨by decide, by decide, by decide +kernel, ⟨by decide, by decide +kernel, by decide +kernel⟩,
      unmatched_of_empty (by decide +kernel) _ _ _⟩,
    ⟨⟨⟨by decide, by decide +kernel, by decide +kernel⟩, by decide, disjoint_of_one (by decide +kernel), ?_, by decide +kernel⟩, ?_⟩,
    ⟨⟨⟨by decide, by decide +kernel, by decide +kernel⟩, by decide, disjoint_of_one (by decide +kernel), ?_, by decide +kernel⟩, ?_⟩,
    ⟨⟨by decide, by decide +kernel, by decide +kernel⟩, by decide, disjoint_of_one (by decide +kernel), ?_, by decide +kernel⟩,
    unmatched_of_empty (by decide +kernel) _ _ _, ?_⟩
  · unfold Outside Inside; decide +kernel
  · unfold WriteRoom; decide +kernel
  · unfold Outside Inside; decide +kernel
  · unfold WriteRoom; decide +kernel
  · unfold Outside Inside; decide +kernel
  · unfold ReadRoom; decide +kernel

theorem witness_AdmittedWritesAreTaken :
    (Admitted true 2 0x20000000 8 none State.reset ∧ WriteRoom 2 State.reset) ∧
    (Admitted true 2 0x1000002FC0 64 (some { aperture := 3, offset := 0x2FC0 }) (cached3 .map) ∧
      WriteRoom 2 (cached3 .map)) ∧
    readyState.slot 7 = some { readSlot .ready (.read [1, 2, 3, 4]) with data := [1, 2, 3, 4], timer := some 32 } ∧
    ((0x30000043 : Addr).toNat < (0x30000040 : Addr).toNat + 4 ∧ (0x30000040 : Addr).toNat < (0x30000043 : Addr).toNat + 1) := by
  refine ⟨⟨admitted_pass _ _, ?_⟩, ⟨admitted_window _ _, ?_⟩, by decide +kernel, by decide +kernel⟩
  · unfold WriteRoom; decide +kernel
  · unfold WriteRoom; decide +kernel

theorem lowest4 {s : State} (h : s.tag 4 = .free) : Lowest .data 4 s := by
  refine ⟨by decide, h, ?_⟩
  intro u hu hc
  exact absurd hc (by revert u; decide)

theorem witness_PassThroughWriteGoesToMemory :
    Idle State.reset ∧ Admitted true 2 0x20000000 8 none State.reset ∧
    (State.reset.req 2).queuedWrites < (State.reset.req 2).postedLimit ∧ Lowest .data 4 State.reset ∧
    Idle (starved State.reset) ∧ NoneFree .data (starved State.reset) :=
  ⟨idle_reset, admitted_pass _ _, by decide +kernel, lowest4 (by decide +kernel),
    ⟨by decide +kernel, by decide +kernel, by decide +kernel, by decide +kernel, by decide +kernel, by decide +kernel,
      by decide +kernel, by decide +kernel⟩, by unfold NoneFree; decide +kernel⟩

/-- With one slot occupied, the slots are counted when the open slot counts are right. -/
theorem counted_one {s : State} (h : ∀ n : SlotId, n ≠ 7 → s.slot n = none)
    (h1 : ∀ r : ReqId, (s.req r).openSlots = slotsOfReq r s) : slotsCounted s := by
  refine ⟨h1, fun m n x y hm hy _ _ _ => ?_⟩
  by_cases em : m = 7
  · by_cases en : n = 7
    · rw [em, en]
    · rw [h n en] at hy; cases hy
  · rw [h m em] at hm; cases hm

theorem witness_AMatchedReadIsAnsweredFromItsSlot :
    (slotsCounted reading ∧ reading.slot 7 = some (readSlot .reading .issued) ∧ Passes 5 0x30000040 4 reading) ∧
    (∀ st ∈ [SlotState.ready, .failed],
      let s := slotted { readSlot st (.read []) with timer := some 1 }
      slotsCounted s ∧ s.slot 7 = some { readSlot st (.read []) with timer := some 1 } ∧ Passes 5 0x30000040 4 s) ∧
    (State.reset.req 5).readFailureMode = .refuse ∧
    ((updReq 5 (fun q => { q with readFailureMode := .ones }) State.reset).req 5).readFailureMode ≠ .refuse := by
  refine ⟨⟨counted_one (by decide +kernel) (by decide +kernel), by decide +kernel,
    ⟨by decide +kernel, by decide +kernel, by decide +kernel⟩⟩, ?_, by decide +kernel, by decide +kernel⟩
  intro st hst
  simp only [List.mem_cons, List.not_mem_nil, or_false] at hst
  rcases hst with rfl | rfl <;>
    exact ⟨counted_one (by decide +kernel) (by decide +kernel), by decide +kernel,
      ⟨by decide +kernel, by decide +kernel, by decide +kernel⟩⟩

theorem witness_BytesTravelOnTheirLanes :
    (0x3F : Addr).toNat % 64 + [(1 : Byte)].length ≤ 64 ∧ (0x40 : Addr).toNat % 64 + (List.replicate 64 (1 : Byte)).length ≤ 64 ∧
    2 ≤ 2 := by
  decide +kernel

/-- A piece's bytes are on the lanes of their places in their lines, also past the end of its first line (log entry 17). -/
theorem test_lanes :
    let m : MemIssue := { tag := 4, kind := .mwrite, address := 0xA0000020, length := 48
                          data := List.replicate 32 7 ++ List.replicate 16 9 }
    m.lane 31 = none ∧ m.lane 32 = some 7 ∧ m.lane 63 = some 7 ∧ m.lane 0 = some 9 ∧ m.lane 15 = some 9 ∧
    m.lane 16 = none ∧ m.lane 64 = none ∧
    bytesOfLanes 0xA000003F 2 (lanesOfBytes 0x3F [0x12] ||| lanesOfBytes 0 [0x34]) = [0x12, 0x34] := by decide +kernel

/-- Of two entries that hold one offset the more recent reading answers, whatever their ranks (R49, log entry 18). -/
theorem test_lookup_takes_the_most_recent_reading :
    let e : CacheEntry := { valid := true, aperture := 3, start := 0, length := 0x3000, rank := 0, reading := 1 }
    ∀ ranks ∈ [(0, 7), (7, 0)],
      lookup 3 0 0x1000 (setCached 5 { e with rank := ranks.1 }
        (setCached 9 { e with rank := ranks.2, reading := 2, extentIndex := 1 } State.reset)) = some 9 := by decide +kernel

/-- Entry 2 of the list of Section 1.3: by R10, R55 and R94 a 64-byte WRITE at window offset 0x3040 is one piece, and one
MWRITE of 64 bytes at 0xA0000020, which ends in the next 64-byte line (R138, log entry 17). -/
theorem test_piece_of_section_1_3_passes_its_line :
    let s := setCached 5 { valid := true, aperture := 3, extentIndex := 2, start := 0x3020, length := 0x4FE0, rank := 5
                           target := 0xA0000000 } (open3 { active with mappedLength := 0xF000 })
    (after (.write 2 0x1000003040 64 0 0) s).out.mem.map (fun m => (m.address, m.length)) = [(0xA0000020, 64)] := by
  decide +kernel

theorem witness_UnmatchedReadsOpenASlot :
    (Admitted false 2 0x20000000 8 none State.reset ∧ Unmatched 2 0x20000000 8 State.reset ∧ ReadRoom 2 State.reset) ∧
    (Admitted false 2 0x1000002FC0 64 (some { aperture := 3, offset := 0x2FC0 }) (cached3 .map) ∧
      Unmatched 2 0x1000002FC0 64 (cached3 .map) ∧ ReadRoom 2 (cached3 .map)) := by
  refine ⟨⟨admitted_pass _ _, unmatched_of_empty (by decide +kernel) _ _ _, ?_⟩,
    ⟨admitted_window _ _, unmatched_of_empty (by decide +kernel) _ _ _, ?_⟩⟩
  · unfold ReadRoom; decide +kernel
  · unfold ReadRoom; decide +kernel

theorem witness_PassThroughReadIsIssued :
    Idle State.reset ∧ Admitted false 2 0x20000000 8 none State.reset ∧
    (State.reset.req 2).openSlots < (State.reset.req 2).slotLimit ∧ (State.reset.req 2).queuedWrites = 0 ∧
    Lowest .data 4 State.reset :=
  ⟨idle_reset, admitted_pass _ _, by decide +kernel, by decide +kernel, lowest4 (by decide +kernel)⟩

theorem witness_PostsAndIssuesAreWhatTheyAre :
    State.reset.reports.length < 16 ∧
    16 ≤ ({ State.reset with reports := List.replicate 16 { kind := .resetDone } } : State).reports.length := by
  decide +kernel

/-- A state without traffic but for one tag. -/
theorem nothing_waits_one (x : TagState) : NothingWaits (setTag 4 x State.reset) :=
  nothing_waits rfl rfl rfl rfl (show waitingRead State.reset = none by decide +kernel)

/-- An operation whose owner has gone. -/
def gone : Op := { writeOp2 with owner := none, cancelled := true }

theorem witness_ResponsesWithoutAnOwner :
    (State.reset.resetLow = false ∧ State.reset.tag 0 = .free ∧ State.reset.tag 15 = .free ∧
      ∀ op, State.reset.tag 15 ≠ .outstanding op) ∧
    (let s := setTag 4 (.quarantined writeOp2.fields) State.reset
     s.resetLow = false ∧ s.tag 4 = .quarantined writeOp2.fields ∧ NothingWaits s) ∧
    (let s := setTag 4 (.outstanding gone) State.reset
     s.resetLow = false ∧ s.tag 4 = .outstanding gone ∧ gone.cancelled = true ∧ gone.owner = none ∧ NothingWaits s) := by
  refine ⟨⟨by decide, by decide +kernel, by decide +kernel, ?_⟩,
    ⟨by decide +kernel, by decide +kernel, nothing_waits_one _⟩,
    ⟨by decide +kernel, by decide +kernel, by decide, by decide, nothing_waits_one _⟩⟩
  intro op h
  have e : State.reset.tag 15 = .free := by decide +kernel
  exact TagState.noConfusion (e.symm.trans h)

/-- The write in flight, with a retry budget and so many retries made. -/
def busied (budget retries : Nat) : State :=
  setTag 4 (.outstanding { writeOp2 with retries := retries }) { writing with settings := { retryBudget := budget } }

theorem witness_BusySendsAnOperationToBackoff :
    (∀ p ∈ [(0, 1000), (2, 1), (1, 0)],
      let s := busied p.1 p.2
      s.resetLow = false ∧ s.tag 4 = .outstanding { writeOp2 with retries := p.2 } ∧
      (s.settings.retryBudget = 0 ∨ p.2 + 1 ≤ s.settings.retryBudget) ∧ s.quiescing = false ∧ s.missQueue = [] ∧
      s.jobs = [] ∧ waitingWrite s = none ∧ (waitingRead s).isNone = true) ∧
    NothingWaits fullJob ∧ fullJob.tag 2 = .outstanding lineOp3 := by
  refine ⟨by decide +kernel, ⟨by decide, by decide, .inr ⟨_, _, _, rfl, by decide, rfl, .inr (.inl (by decide)), ?_⟩,
    by decide +kernel, by decide +kernel⟩, by decide +kernel⟩
  intro p h
  cases h

/-- Only one tag is OUTSTANDING. -/
theorem only_tag {s : State} {t : TagId} (h : ∀ u, u ≠ t → s.tag u = .free) {P : Op → Prop} :
    ∀ u op, s.tag u = .outstanding op → P op → u = t := by
  intro u op hu _
  by_cases e : u = t
  · exact e
  · rw [h u e] at hu; cases hu

/-- Every tag but one, and perhaps a second that carries another piece of the owner, is FREE. -/
theorem only_pieces {s : State} {t : TagId} {x : TagState} {o : OwnerRef} {ys : List Piece}
    (h : ∀ u, u = t ∨ s.tag u = .free ∨ s.tag u = x)
    (hx : x = .free ∨ ∃ op' y, x = .outstanding op' ∧ y ∈ ys ∧ op'.owner = some (.piece o y.index)) :
    ∀ u op k, s.tag u = .outstanding op → op.owner = some (.piece o k) → u = t ∨ ∃ y ∈ ys, y.index = k := by
  intro u op k hu ho
  rcases h u with e | e | e
  · exact .inl e
  · rw [e] at hu; cases hu
  · rw [e] at hu
    rcases hx with rfl | ⟨op', y, rfl, hy, ho'⟩
    · cases hu
    · cases hu
      rw [ho'] at ho
      cases ho
      exact .inr ⟨y, hy, rfl⟩

theorem one_write : OneWrite 4 writeOp2 issuedEntry [] (wholePiece 0x20000000 8 .issued) [] writing :=
  ⟨by decide +kernel, by decide +kernel, by decide +kernel, by decide, by decide, by decide,
    ⟨by decide, by decide, by intro x h; cases h⟩, by decide +kernel, by decide +kernel, by decide +kernel,
    by decide +kernel, by decide +kernel, by decide +kernel, by decide,
    fun u op k h1 h2 => .inl (only_tag (t := 4) (P := fun op => op.owner = some (.piece issuedEntry.ref k))
      (by decide +kernel) u op h1 h2)⟩

/-- Two pieces of a translated write: the first of 4 bytes, then 4 more. -/
def halfPiece (i : Nat) (x : PieceState) : Piece where
  index := i
  offset := 4 * i
  length := 4
  extentIndex := some (7 + i)
  kind := .map
  target := some (BitVec.ofNat 40 (0x80000000 + 0x1000 * i))
  generation := some 0
  state := x

/-- An entry of two pieces, the first in flight under tag 4, the second in a state. -/
def twoPieces (st : EntryState) (x : PieceState) (f : Option Failure) : PostEntry where
  core := { requester := 2, address := 0x1000000100, length := 8, place := some { aperture := 3, offset := 0x100 }
            pieces := [halfPiece 0 .issued, halfPiece 1 x], generation := some 0, failure := f, age := 0 }
  sequence := 1
  data := [1, 2, 3, 4, 5, 6, 7, 8]
  state := st

/-- The operation of its piece. -/
def halfOp (i : Nat) : Op where
  cls := .data
  owner := some (.piece (.entry 2 1) i)
  kind := .mwrite
  address := BitVec.ofNat 40 (0x80000000 + 0x1000 * i)
  length := 4
  retries := 15
  timer := 64

/-- The entry in the queue, its first piece's operation under tag 4, perhaps its second's under tag 6 or in BACKOFF. -/
def twoWrites (e : PostEntry) (cancelled : Bool) (second : TagState) (parked : List Parked) : State :=
  setTag 6 second (setTag 4 (.outstanding { halfOp 0 with cancelled := cancelled })
    (updReq 2 (fun q => { q with taken := 1, queuedWrites := 1 })
      { open3 { active with inFlight := 1 } with postQueue := [e], parked := parked, nextAge := 1 }))

/-- A failure as a FAILED entry records it. -/
def recorded : Failure where
  cause := .memoryError
  extentIndex := some 8
  windowOffset := some 0x104
  tag := some 6
  generation := some 0

/-- Another piece WRITTEN, in flight, in BACKOFF, waiting for a tag after it, or PENDING; and a FAILED entry's last, and last but one, cancelled piece. -/
def writeCases : List (EntryState × PieceState × Option Failure × Bool × TagState × List Parked) :=
  [(.issued, .written, none, false, .free, []), (.issued, .issued, none, false, .outstanding (halfOp 1), []),
    (.issued, .issued, none, false, .free, [{ op := halfOp 1, waiting := false }]),
    (.issued, .issued, none, false, .free, [{ op := halfOp 1, waiting := true }]), (.issued, .pending, none, false, .free, []),
    (.failed, .ended, some recorded, true, .free, []), (.failed, .issued, some recorded, true, .outstanding (halfOp 1), [])]

theorem two_writes : ∀ q ∈ writeCases,
    OneWrite 4 { halfOp 0 with cancelled := q.2.2.2.1 } (twoPieces q.1 q.2.1 q.2.2.1) [] (halfPiece 0 .issued)
      [halfPiece 1 q.2.1] (twoWrites (twoPieces q.1 q.2.1 q.2.2.1) q.2.2.2.1 q.2.2.2.2.1 q.2.2.2.2.2) := by
  intro q hq
  have h : ∀ q ∈ writeCases,
      let e := twoPieces q.1 q.2.1 q.2.2.1
      let s := twoWrites e q.2.2.2.1 q.2.2.2.2.1 q.2.2.2.2.2
      s.resetLow = false ∧ s.quiescing = false ∧ s.postQueue = [e] ∧ (s.ap 3).state = .active ∧
      (∀ n, s.slot n = none) ∧ s.missQueue = [] ∧ s.unqueued = [] ∧ s.jobs = [] ∧
      (∀ y ∈ s.parked, ∃ z ∈ [] ++ [halfPiece 1 q.2.1], y.op.owner = some (.piece e.ref z.index)) ∧
      s.tag 4 = .outstanding { halfOp 0 with cancelled := q.2.2.2.1 } ∧
      (∀ u, u = 4 ∨ s.tag u = .free ∨ s.tag u = q.2.2.2.2.1) ∧
      (q.2.2.2.2.1 = .free ∨ q.2.2.2.2.1 = .outstanding (halfOp 1)) := by decide +kernel
  obtain ⟨a, b, c, d, e, f, g, i, j, k, l, m⟩ := h q hq
  refine ⟨a, b, c, rfl, rfl, by intro y hy; simp at hy; rw [hy]; simp [halfPiece], ⟨rfl, rfl, ?_⟩, e, f, g, i, j, k, rfl, ?_⟩
  · intro y hy; cases hy; exact d
  · refine only_pieces l ?_
    rcases m with m | m
    · exact .inl m
    · exact .inr ⟨halfOp 1, halfPiece 1 q.2.1, m, by simp, rfl⟩

/-- Four pieces of a write: one that fails, one in flight under tag 6, one in BACKOFF, one PENDING. -/
def mixedEntry : PostEntry :=
  let e := twoPieces .issued .issued none
  { e with
    core := { e.core with
      length := 16, pieces := [halfPiece 0 .issued, halfPiece 1 .issued, halfPiece 2 .issued, halfPiece 3 .pending] }
    data := List.replicate 16 0xAB }

def mixedWrite : State := twoWrites mixedEntry false (.outstanding (halfOp 1)) [{ op := halfOp 2, waiting := false }]

theorem mixed_write : OneWrite 4 (halfOp 0) mixedEntry [] (halfPiece 0 .issued)
    [halfPiece 1 .issued, halfPiece 2 .issued, halfPiece 3 .pending] mixedWrite :=
  ⟨by decide +kernel, by decide +kernel, by decide +kernel, by decide, by decide, by decide,
    ⟨rfl, rfl, fun x h => by cases h; decide +kernel⟩, by decide +kernel, by decide +kernel, by decide +kernel,
    by decide +kernel, by decide +kernel, by decide +kernel, by decide,
    only_pieces (x := .outstanding (halfOp 1)) (by decide +kernel)
      (.inr ⟨halfOp 1, halfPiece 1 .issued, rfl, by simp, rfl⟩)⟩

/-- The model's own test says which pieces have an operation OUTSTANDING. -/
theorem flying (o : OwnerRef) (y : Piece) (s : State) : isOutstanding (.piece o y.index) s = true ↔ Flying o y s := by
  unfold isOutstanding Flying
  rw [List.any_eq_true]
  constructor
  · rintro ⟨u, -, h⟩
    cases e : s.tag u <;> simp_all
    exact ⟨u, _, e, h⟩
  · rintro ⟨u, op, h, ho⟩
    exact ⟨u, List.mem_finRange u, by simp [h, ho]⟩

/-- Each clause's case: one piece; another WRITTEN; another in flight; another in BACKOFF, or waiting after it; another
PENDING; a FAILED entry's last, and last but one, cancelled piece; and the mixture. -/
theorem witness_WritesEndWrittenOrLost :
    (OneWrite 4 writeOp2 issuedEntry [] (wholePiece 0x20000000 8 .issued) [] writing ∧ writeOp2.cancelled = false) ∧
    writeCases.map (fun q => (q.1, q.2.1)) = [(.issued, .written), (.issued, .issued), (.issued, .issued),
      (.issued, .issued), (.issued, .pending), (.failed, .ended), (.failed, .issued)] ∧
    (∀ q ∈ writeCases,
      OneWrite 4 { halfOp 0 with cancelled := q.2.2.2.1 } (twoPieces q.1 q.2.1 q.2.2.1) [] (halfPiece 0 .issued)
        [halfPiece 1 q.2.1] (twoWrites (twoPieces q.1 q.2.1 q.2.2.1) q.2.2.2.1 q.2.2.2.2.1 q.2.2.2.2.2)) ∧
    (OneWrite 4 (halfOp 0) mixedEntry [] (halfPiece 0 .issued)
        [halfPiece 1 .issued, halfPiece 2 .issued, halfPiece 3 .pending] mixedWrite ∧
      (∀ y, isOutstanding (.piece mixedEntry.ref y.index) mixedWrite = true ↔ Flying mixedEntry.ref y mixedWrite) ∧
      isOutstanding (.piece mixedEntry.ref 1) mixedWrite = true) ∧
    (∀ y ∈ [halfPiece 1 .issued],
      isOutstanding (.piece (.entry 2 1) y.index) (twoWrites (twoPieces .issued .issued none) false .free []) = false) ∧
    Ends 4 (halfOp 0) (.responseBusy 4) .free ∧ Ends 4 (halfOp 0) (.responseTimeout 4) (.quarantined {}) ∧
    Fails 4 writeOp2 (.responseError 4 2) .memoryError .free writing ∧
    Fails 4 writeOp2 (.responseTimeout 4) .responseTimeout (.quarantined writeOp2.fields) writing ∧
    Fails 4 (halfOp 0) (.responseBusy 4) .retryExhausted .free mixedWrite :=
  ⟨⟨one_write, rfl⟩, by decide, two_writes, ⟨mixed_write, fun y => flying _ y _, by decide +kernel⟩, by decide +kernel,
    .inl ⟨0, 0, by simp [responses], rfl⟩, .inr ⟨rfl, rfl⟩,
    .inl ⟨2, rfl, rfl, rfl⟩, .inr (.inr ⟨rfl, rfl, rfl⟩), .inr (.inl ⟨rfl, by decide, by decide, rfl, rfl⟩)⟩

theorem one_read : OneRead 15 readOp5 7 (readSlot .reading .issued) [] (wholePiece 0x30000040 4 .issued) [] reading :=
  ⟨by decide +kernel, by decide +kernel, by decide +kernel, by decide +kernel, by decide +kernel, by decide, by decide,
    by decide, ⟨by decide, by decide, by intro x h; cases h⟩, by decide +kernel, by decide +kernel, by decide +kernel,
    by decide +kernel, by decide,
    fun u op k h1 h2 => .inl (only_tag (t := 15) (P := fun op => op.owner = some (.piece (.slot 7) k))
      (by decide +kernel) u op h1 h2)⟩

/-- A slot of two pieces, the second in flight under tag 15, the first in a state. -/
def twoReads (st : SlotState) (x : PieceState) : Slot where
  core := { requester := 5, address := 0x1000000100, length := 8, place := some { aperture := 3, offset := 0x100 }
            pieces := [halfPiece 0 x, halfPiece 1 .issued], generation := some 0, age := 0 }
  fence := 0
  fenceMet := true
  state := st

def halfRead (i : Nat) (c : Bool) : Op :=
  { halfOp i with kind := .mread, owner := some (.piece (.slot 7) i), retries := 0, cancelled := c }

/-- The slot's state, its second piece's operation under tag 15, a retry budget of 1, perhaps the first's under tag 6 or in
BACKOFF. -/
def twoReading (c : Slot) (cancelled : Bool) (second : TagState) (parked : List Parked) : State :=
  setTag 6 second <| setTag 15 (.outstanding { halfRead 1 cancelled with retries := 1 })
    (updReq 5 (fun q => { q with openSlots := 1 }) (setSlot 7 (some c)
      { open3 { active with inFlight := 1 } with
        parked := parked, nextAge := 1, settings := { retryBudget := 1 } }))

/-- Another piece READ, in flight, or in BACKOFF; and a FAILED slot's cancelled piece. -/
def readCases : List (SlotState × PieceState × Bool × TagState × List Parked) :=
  [(.reading, .read [1, 2, 3, 4], false, .free, []), (.reading, .issued, false, .outstanding (halfRead 0 false), []),
    (.reading, .issued, false, .free, [{ op := halfRead 0 false, waiting := false }]),
    (.failed, .ended, true, .free, [])]

theorem two_reads : ∀ q ∈ readCases,
    OneRead 15 { halfRead 1 q.2.2.1 with retries := 1 } 7 (twoReads q.1 q.2.1) [halfPiece 0 q.2.1] (halfPiece 1 .issued) []
      (twoReading (twoReads q.1 q.2.1) q.2.2.1 q.2.2.2.1 q.2.2.2.2) := by
  intro q hq
  have h : ∀ q ∈ readCases,
      let c := twoReads q.1 q.2.1
      let s := twoReading c q.2.2.1 q.2.2.2.1 q.2.2.2.2
      s.resetLow = false ∧ s.quiescing = false ∧ s.postQueue = [] ∧ s.slot 7 = some c ∧ (∀ m, m ≠ 7 → s.slot m = none) ∧
      (s.ap 3).state = .active ∧ s.missQueue = [] ∧ s.jobs = [] ∧
      (∀ y ∈ s.parked, ∃ z ∈ [halfPiece 0 q.2.1] ++ [], y.op.owner = some (.piece (.slot 7) z.index)) ∧
      s.tag 15 = .outstanding { halfRead 1 q.2.2.1 with retries := 1 } ∧
      (∀ u, u = 15 ∨ s.tag u = .free ∨ s.tag u = q.2.2.2.1) ∧
      (q.2.2.2.1 = .free ∨ q.2.2.2.1 = .outstanding (halfRead 0 false)) := by decide +kernel
  obtain ⟨a, b, c, d, e, f, g, i, j, k, l, m⟩ := h q hq
  refine ⟨a, b, c, d, e, rfl, rfl, by intro y hy; simp at hy; rw [hy]; simp [halfPiece], ⟨rfl, rfl, ?_⟩, g, i, j, k, rfl, ?_⟩
  · intro y hy; cases hy; exact f
  · refine only_pieces l ?_
    rcases m with m | m
    · exact .inl m
    · exact .inr ⟨halfRead 0 false, halfPiece 0 q.2.1, m, by simp, rfl⟩

/-- Three pieces of a read before the one that fails: one PENDING, one in flight under tag 6, one in BACKOFF. -/
def mixedSlot : Slot :=
  let c := twoReads .reading .issued
  { c with core := { c.core with
      length := 16, pieces := [halfPiece 0 .pending, halfPiece 1 .issued, halfPiece 2 .issued, halfPiece 3 .issued] } }

def mixedRead : State := setTag 15 (.outstanding (halfRead 3 false))
  (twoReading mixedSlot false (.outstanding (halfRead 1 false)) [{ op := halfRead 2 false, waiting := true }])

theorem mixed_read : OneRead 15 (halfRead 3 false) 7 mixedSlot
    [halfPiece 0 .pending, halfPiece 1 .issued, halfPiece 2 .issued] (halfPiece 3 .issued) [] mixedRead :=
  ⟨by decide +kernel, by decide +kernel, by decide +kernel, by decide +kernel, by decide +kernel, by decide, by decide,
    by decide, ⟨rfl, rfl, fun x h => by cases h; decide +kernel⟩, by decide +kernel, by decide +kernel, by decide +kernel,
    by decide +kernel, by decide,
    only_pieces (x := .outstanding (halfRead 1 false)) (by decide +kernel)
      (.inr ⟨halfRead 1 false, halfPiece 1 .issued, rfl, by simp, rfl⟩)⟩

theorem witness_ReadsEndReadyOrFailed :
    OneRead 15 readOp5 7 (readSlot .reading .issued) [] (wholePiece 0x30000040 4 .issued) [] reading ∧
    readCases.map (fun q => q.1) = [.reading, .reading, .reading, .failed] ∧
    (∀ q ∈ readCases,
      OneRead 15 { halfRead 1 q.2.2.1 with retries := 1 } 7 (twoReads q.1 q.2.1) [halfPiece 0 q.2.1]
        (halfPiece 1 .issued) [] (twoReading (twoReads q.1 q.2.1) q.2.2.1 q.2.2.2.1 q.2.2.2.2)) ∧
    (OneRead 15 (halfRead 3 false) 7 mixedSlot
        [halfPiece 0 .pending, halfPiece 1 .issued, halfPiece 2 .issued] (halfPiece 3 .issued) [] mixedRead ∧
      ∀ y, isOutstanding (.piece (.slot 7) y.index) mixedRead = true ↔ Flying (.slot 7) y mixedRead) ∧
    Ends 15 (halfRead 1 true) (.responseOk 15 0) .free ∧
    Fails 15 readOp5 (.responseError 15 2) .memoryError .free reading ∧
    Fails 15 readOp5 (.responseTimeout 15) .responseTimeout (.quarantined readOp5.fields) reading ∧
    Fails 15 { halfRead 1 false with retries := 1 } (.responseBusy 15) .retryExhausted .free
      (twoReading (twoReads .reading .issued) false .free []) :=
  ⟨one_read, by decide, two_reads, ⟨mixed_read, fun y => flying _ y _⟩,
    .inl ⟨0, 0, by simp [responses], rfl⟩, .inl ⟨2, rfl, rfl, rfl⟩, .inr (.inr ⟨rfl, rfl, rfl⟩),
    .inr (.inl ⟨rfl, by decide, by decide, rfl, rfl⟩)⟩

theorem witness_DiscardExpiryFreesTheSlot :
    (readyState.slot 7).elim false (fun c => c.timer.isSome && c.core.failure.isNone) = true ∧
    State.reset.slot 0 = none ∧ (reading.slot 7).elim false (fun c => c.timer.isNone) = true := by decide +kernel

/-- A read piece in BACKOFF, and a line of a running job. -/
def readBackoff : State := backedOff readOp5 (setTag 15 .free reading)
def lineBackoff : State := backedOff lineOp3 (setTag 2 .free fullJob)

theorem line_backoff (t : TagState) (u : TagState) : NothingWaits (setTag 2 t (setTag 3 u lineBackoff)) := by
  refine ⟨rfl, (by intro _ h; cases h), .inr ⟨_, _, _, rfl, rfl, rfl, .inr (.inl (by decide)), ?_⟩, rfl,
    show waitingRead State.reset = none by decide +kernel⟩
  intro p hp hw
  simp only [lineBackoff, backedOff, setTag, List.mem_singleton] at hp
  rw [hp] at hw
  cases hw

theorem witness_BackoffEndIssuesAgain :
    (∀ e : EngineId,
      let s := backedOff { walkOp3 with owner := some (.walk e) } State.reset
      NothingWaits s ∧ s.parked = [{ op := { walkOp3 with owner := some (.walk e) }, waiting := false }] ∧
      s.tag ⟨e.val, by omega⟩ = .free) ∧
    (NothingWaits (setTag 2 .free (setTag 3 .free lineBackoff)) ∧
      Lowest .validation 2 (setTag 2 .free (setTag 3 .free lineBackoff)) ∧
      NothingWaits (setTag 2 (.quarantined {}) (setTag 3 (.quarantined {}) lineBackoff)) ∧
      NoneFree .validation (setTag 2 (.quarantined {}) (setTag 3 (.quarantined {}) lineBackoff)) ∧
      lineBackoff.jobs ≠ [] ∧ lineBackoff.parked = [{ op := lineOp3, waiting := false }]) ∧
    (∀ s ∈ [backedOff writeOp2 (setTag 4 .free writing), backedOff writeOp2 (starved writing)],
      s.quiescing = false ∧ s.postQueue = [issuedEntry] ∧ (∀ n, s.slot n = none) ∧ s.missQueue = [] ∧ s.jobs = [] ∧
      s.parked = [{ op := writeOp2, waiting := false }]) ∧
    writeOp2.owner = some (.piece issuedEntry.ref 0) ∧ Lowest .data 4 (backedOff writeOp2 (setTag 4 .free writing)) ∧
    NoneFree .data (backedOff writeOp2 (starved writing)) ∧
    (∀ s ∈ [readBackoff, starved readBackoff],
      s.quiescing = false ∧ s.postQueue = [] ∧ s.slot 7 = some (readSlot .reading .issued) ∧
      (∀ m, m ≠ 7 → s.slot m = none) ∧ s.missQueue = [] ∧ s.jobs = [] ∧
      s.parked = [{ op := readOp5, waiting := false }]) ∧
    readOp5.owner = some (.piece (.slot 7) 0) ∧ Lowest .data 4 readBackoff ∧ NoneFree .data (starved readBackoff) ∧
    ∀ p ∈ State.reset.parked, p.op.owner = some (.line 0) → p.waiting = true :=
  ⟨fun e => ⟨nothing_waits rfl rfl rfl rfl (by revert e; decide +kernel), rfl, by revert e; decide +kernel⟩,
    ⟨line_backoff _ _, by unfold Lowest; decide +kernel, line_backoff _ _, by unfold NoneFree; decide +kernel,
      by decide, by decide⟩,
    by decide +kernel, by decide, lowest4 (by decide +kernel), by unfold NoneFree; decide +kernel, by decide +kernel,
    by decide, lowest4 (by decide +kernel), by unfold NoneFree; decide +kernel, by intro p h; cases h⟩

/-- The tag of a state's one operation falls due. -/
def dueAt (n : Nat) : State := setTag 4 (.outstanding { writeOp2 with timer := n }) writing

theorem tag_due {n : Nat} (h : n ≤ 1) : TagDue 4 (dueAt n) := ⟨_, rfl, h⟩

theorem no_tag_due {s : State} (h : ∀ t, s.tag t = .free) (t : TagId) : ¬TagDue t s := by
  rintro ⟨op, e, _⟩
  rw [h t] at e
  cases e

theorem no_slot_due {s : State} (h : ∀ n, s.slot n = none) (n : SlotId) : ¬SlotDue n s := by
  rintro ⟨c, k, e, _⟩
  rw [h n] at e
  cases e

theorem witness_ATickLowersTimersAndEndsIntervals :
    (State.reset.resetLow = false ∧ (∀ t, ¬TagDue t State.reset) ∧ (∀ n, ¬SlotDue n State.reset) ∧
      ∀ p ∈ State.reset.parked, p.waiting = true) ∧
    ((dueAt 1).resetLow = false ∧ TagDue 4 (dueAt 1) ∧ (∀ u, u ≠ 4 → ¬TagDue u (dueAt 1)) ∧
      (∀ n, ¬SlotDue n (dueAt 1)) ∧ ∀ p ∈ (dueAt 1).parked, p.waiting = true) ∧
    (let s := slotted { readSlot .ready (.read []) with timer := some 1 }
     SlotDue 7 s ∧ (∀ m, m ≠ 7 → ¬SlotDue m s) ∧ ∀ t, ¬TagDue t s) ∧
    (let s := backedOff writeOp2 (setTag 4 .free writing)
     (∃ p ∈ s.parked, p.waiting = false) ∧
     (∀ p ∈ s.parked, p.waiting = false → p.op.owner = some (.piece (.entry 2 1) 0)) ∧
     (∀ t, ¬TagDue t s) ∧ ∀ n, ¬SlotDue n s) := by
  refine ⟨⟨by decide, no_tag_due (by decide +kernel), no_slot_due (by decide +kernel), by intro p h; cases h⟩,
    ⟨by decide +kernel, tag_due (by decide), ?_, no_slot_due (by decide +kernel), by decide +kernel⟩,
    ⟨⟨_, 1, rfl, rfl, by decide⟩, ?_, no_tag_due (by decide +kernel)⟩,
    ⟨by decide +kernel, by decide +kernel, no_tag_due (by decide +kernel), no_slot_due (by decide +kernel)⟩⟩
  · have h : ∀ u : TagId, u ≠ 4 → (dueAt 1).tag u = .free := by decide +kernel
    rintro u hu ⟨op, e, _⟩
    rw [h u hu] at e; cases e
  · have h : ∀ m : SlotId, m ≠ 7 →
        (slotted { readSlot .ready (.read []) with timer := some 1 }).slot m = none := by decide +kernel
    rintro m hm ⟨c, k, e, _⟩
    rw [h m hm] at e; cases e

/-- A READY entry and a READING slot that both wait, only tag 15 FREE in the data class. -/
def contended (g : GrantKind) : State :=
  { scarce (slotted (readSlot .reading .pending)) with
    postQueue := [{ issuedEntry with state := .ready
                                     core := { issuedEntry.core with pieces := [wholePiece 0x20000000 8 .pending] } }]
    lastGrant := g }

theorem witness_TheArbiterAlternates :
    (∀ g : GrantKind, g = .read ∨ g = .write →
      let s := contended g
      s.tag 15 = .free ∧ tagClass 15 = .data ∧ (∀ u, u ≠ 15 → tagClass u = .data → s.tag u ≠ .free) ∧
      s.slot 7 = some (readSlot .reading .pending) ∧ (∀ m, m ≠ 7 → s.slot m = none) ∧ s.parked = [] ∧ s.lastGrant = g) ∧
    NoneFree .data (starved (contended .read)) ∧
    waitingWrite State.reset = none ∧ (waitingRead State.reset).isNone = true := by
  refine ⟨?_, by unfold NoneFree; decide +kernel, by decide +kernel, by decide +kernel⟩
  rintro g (rfl | rfl) <;> decide +kernel

theorem witness_NothingIsTakenWhileResetIsLow :
    (let s : State := { State.reset with resetLow := true }; s.resetLow = true) ∧
    (after .hardwareReset writing).resetLow = true := by decide +kernel

/-- The bridge with one cached extent is idle, and only that entry holds the offset. -/
theorem idle_cached (k : ExtentKind) : Idle (cached3 k) := by
  cases k <;> exact ⟨by decide +kernel, by decide +kernel, by decide +kernel, by decide +kernel, by decide +kernel,
    by decide +kernel, by decide +kernel, by decide +kernel⟩

theorem cached_five (k : ExtentKind) : Cached 3 0x2FC0 5 (cached3 k) := by
  unfold Cached; cases k <;> decide +kernel

/-- Two cached extents of aperture 3: the first of a kind ends at offset 0x2FD0, and the next begins there. -/
def split3 : State :=
  let e : CacheEntry := { valid := true, aperture := 3, extentIndex := 1, start := 0x2FD0, length := 0x30, rank := 9
                          target := 0x90000000 }
  setCached 9 e (setCached 5 { e with extentIndex := 0, start := 0, length := 0x2FD0, target := 0x80000000, rank := 5 }
    (open3 active))

/-- The cached extent with a target that is no multiple of 64: bytes from offset 0x2FC0 on pass the end of a line. -/
def crossing3 (k : ExtentKind) : State :=
  setCached 5 { (cached3 k).cached 5 with target := 0x80000020 } (open3 active)

/-- The one-extent clauses' hypotheses hold of it, and the piece passes the end of a line. -/
def Crossing (write : Bool) (k : ExtentKind) : Prop :=
  Idle (crossing3 k) ∧ Admitted write 2 0x1000002FC0 64 (some { aperture := 3, offset := 0x2FC0 }) (crossing3 k) ∧
    Lowest .data 4 (crossing3 k) ∧ Cached 3 0x2FC0 5 (crossing3 k) ∧
    64 < (((crossing3 k).cached 5).target.toNat + (0x2FC0 - ((crossing3 k).cached 5).start)) % 64 + 64

theorem crossing (write : Bool) : ∀ k ∈ [ExtentKind.map, .rom], Crossing write k := by
  intro k hk
  simp only [List.mem_cons, List.not_mem_nil, or_false] at hk
  rcases hk with rfl | rfl <;> cases write <;>
    exact ⟨⟨by decide +kernel, by decide +kernel, by decide +kernel, by decide +kernel, by decide +kernel,
        by decide +kernel, by decide +kernel, by decide +kernel⟩,
      ⟨⟨by decide +kernel, by decide +kernel, by decide +kernel⟩, by decide +kernel,
        disjoint_of_one (by decide +kernel), by unfold Course Inside Permitted; decide +kernel⟩,
      lowest4 (by decide +kernel), by unfold Cached; decide +kernel, by decide +kernel⟩

theorem witness_CachedExtentsDecideAWrite :
    Crossing true .map ∧
    (∀ k : ExtentKind,
      Idle (cached3 k) ∧ Admitted true 2 0x1000002FC0 64 (some { aperture := 3, offset := 0x2FC0 }) (cached3 k) ∧
      ((cached3 k).req 2).queuedWrites = 0 ∧ 1 ≤ ((cached3 k).req 2).postedLimit ∧
      ((cached3 k).ap 3).state = .active ∧ Lowest .data 4 (cached3 k) ∧ Cached 3 0x2FC0 5 (cached3 k) ∧
      0x2FC0 + 64 ≤ ((cached3 k).cached 5).start + ((cached3 k).cached 5).length ∧
      ((cached3 k).cached 5).kind = k ∧ (cached3 k).reports.length < 16) ∧
    (Idle split3 ∧ Admitted true 2 0x1000002FC0 64 (some { aperture := 3, offset := 0x2FC0 }) split3 ∧
      Lowest .data 4 split3 ∧ NextLowest 4 5 split3 ∧ Cached 3 0x2FC0 5 split3 ∧ Cached 3 0x2FD0 9 split3 ∧
      (split3.cached 5).kind = .map ∧ (split3.cached 9).kind = .map ∧ 0x2FD0 < 0x2FC0 + 64 ∧
      0x2FC0 + 64 = (split3.cached 9).start + (split3.cached 9).length) ∧
    Idle (open3 active) ∧ Admitted true 2 0x1000002FC0 64 (some { aperture := 3, offset := 0x2FC0 }) (open3 active) ∧
    Uncached 3 0x2FC0 (open3 active) ∧ engineAvailable 0 (open3 active) = true := by
  refine ⟨crossing true _ (by decide),
    fun k => ⟨idle_cached k, admitted_window _ _, ?_, ?_, ?_, lowest4 ?_, cached_five k, ?_, ?_, ?_⟩,
    ⟨⟨by decide +kernel, by decide +kernel, by decide +kernel, by decide +kernel, by decide +kernel,
      by decide +kernel, by decide +kernel, by decide +kernel⟩,
      ⟨⟨by decide +kernel, by decide +kernel, by decide +kernel⟩, by decide +kernel,
        disjoint_of_one (by decide +kernel), by unfold Course Inside Permitted; decide +kernel⟩,
      lowest4 (by decide +kernel), by unfold NextLowest; decide +kernel, by unfold Cached; decide +kernel,
      by unfold Cached; decide +kernel, by decide +kernel, by decide +kernel, by decide, by decide +kernel⟩,
    ⟨by decide +kernel, by decide +kernel, by decide +kernel, by decide +kernel, by decide +kernel,
      by decide +kernel, by decide +kernel, by decide +kernel⟩,
    ⟨⟨by decide +kernel, by decide +kernel, by decide +kernel⟩, by decide +kernel,
      disjoint_of_one (by decide +kernel), by unfold Course Inside Permitted; decide +kernel⟩,
    by unfold Uncached; decide +kernel, by decide +kernel⟩ <;> cases k <;> decide +kernel

theorem witness_CachedExtentsDecideARead :
    (∀ k ∈ [ExtentKind.map, .rom], Crossing false k) ∧
    (∀ k : ExtentKind,
      Idle (cached3 k) ∧ Admitted false 2 0x1000002FC0 64 (some { aperture := 3, offset := 0x2FC0 }) (cached3 k) ∧
      ((cached3 k).req 2).queuedWrites = 0 ∧ ((cached3 k).req 2).openSlots < ((cached3 k).req 2).slotLimit ∧
      ((cached3 k).ap 3).state = .active ∧ Lowest .data 4 (cached3 k) ∧ Cached 3 0x2FC0 5 (cached3 k) ∧
      0x2FC0 + 64 ≤ ((cached3 k).cached 5).start + ((cached3 k).cached 5).length ∧
      ((cached3 k).cached 5).kind = k ∧ (cached3 k).reports.length < 16) ∧
    (let s := walking active
     s.postQueue = [] ∧ (∀ n, s.slot n = none) ∧ s.unqueued = [] ∧ s.jobs = [] ∧ s.parked = [] ∧
      Admitted false 2 0x1000002FC0 64 (some { aperture := 3, offset := 0x2FC0 }) s ∧ Uncached 3 0x2FC0 s ∧
      s.missQueue = [request3] ∧ request3.walk.isSome = true ∧ request3.generation = (s.ap 3).generation ∧
      request3.target / 256 = 0x2FC0 / 256) := by
  refine ⟨crossing false,
    fun k => ⟨idle_cached k, admitted_window _ _, ?_, ?_, ?_, lowest4 ?_, cached_five k, ?_, ?_, ?_⟩,
    ⟨by decide +kernel, by decide +kernel, by decide +kernel, by decide +kernel, by decide +kernel,
      ⟨⟨by decide +kernel, by decide +kernel, by decide +kernel⟩, by decide +kernel,
        disjoint_of_one (by decide +kernel), by unfold Course Inside Permitted; decide +kernel⟩,
      by unfold Uncached; decide +kernel, by decide +kernel, by decide, by decide +kernel, by decide⟩⟩ <;>
    cases k <;> decide +kernel

/-- A QUEUED request of aperture 3 behind a WALKING one. -/
def queued3 (engine0 : Bool) : State :=
  let busy : WalkRequest := { request3 with aperture := 4, walk := some { walk3 with engine := 0 } }
  { open3 active with missQueue := (if engine0 then [] else [busy]) ++ [{ request3 with walk := none }] }

theorem witness_AnEngineTakesTheOldestRequest :
    (let s := setTag 1 (.quarantined {}) (queued3 true)
     engineAvailable 0 s = true ∧ (∀ f, f ≠ 0 → engineAvailable f s = false) ∧
      s.missQueue = [] ++ { request3 with walk := none } :: [] ∧ (s.places 3)[(0 : Fin 32)] = some 0) ∧
    (engineAvailable 1 (queued3 false) = true ∧ (∀ f, f ≠ 1 → engineAvailable f (queued3 false) = false) ∧
      (∃ busy, (queued3 false).missQueue = [busy] ++ { request3 with walk := none } :: [] ∧
        ∀ y ∈ [busy], y.walk.isSome = true) ∧ ((queued3 false).places 3)[(0 : Fin 32)] = some 0) ∧
    (let s : State := { queued3 true with missQueue := List.replicate 3 { request3 with walk := none } }
     (∀ e, engineAvailable e s = true) ∧ (s.places 3)[(0 : Fin 32)] = some 0 ∧
      s.missQueue = { request3 with walk := none } :: { request3 with walk := none } :: [{ request3 with walk := none }]) ∧
    (∀ e, engineAvailable e (queued3 true) = true) ∧
    (∀ w ∈ State.reset.missQueue, w.walk.isSome = true) ∧
    ∀ e, engineAvailable e (setTag 0 (.quarantined {}) (setTag 1 (.quarantined {}) State.reset)) = false :=
  ⟨by decide +kernel,
    ⟨by decide +kernel, by decide +kernel,
      ⟨{ request3 with aperture := 4, walk := some { walk3 with engine := 0 } }, by decide +kernel, by decide +kernel⟩,
      by decide +kernel⟩, by decide +kernel, by decide +kernel, by decide, by decide +kernel⟩

/-- A walk on engine 1 of a state whose miss queue begins with it. -/
theorem current_walk {op : Op} {x : Walk} {w : WalkRequest} {rest : List WalkRequest} {s : State}
    (h : s.resetLow = false ∧ s.quiescing = false ∧ s.missQueue = w :: rest ∧ s.unqueued = [] ∧ s.jobs = [] ∧
      s.tag 1 = .outstanding op ∧ w.generation = (s.ap w.aperture).generation)
    (hw : w.walk = some x ∧ w.settlingMark = false ∧ w.dropped = false)
    (hr : ∀ y ∈ rest, ∀ z, y.walk = some z → z.engine ≠ 1)
    (ho : x.engine = 1 ∧ op.owner = some (.walk 1) ∧ op.cancelled = false := by exact ⟨rfl, rfl, rfl⟩) :
    CurrentWalk 1 op w x rest s where
  up := h.1
  going := h.2.1
  misses := h.2.2.1
  walk := hw.1
  engine := ho.1
  others := hr
  mark := hw.2.1
  unqueued := h.2.2.2.1
  jobs := h.2.2.2.2.1
  tag := h.2.2.2.2.2.1
  owner := ho.2.1
  live := ho.2.2
  kept := hw.2.2
  current := h.2.2.2.2.2.2

theorem no_rest : ∀ y ∈ ([] : List WalkRequest), ∀ z, y.walk = some z → z.engine ≠ 1 := by
  intro y h; cases h

theorem one_walk (st : ApState) (n : Nat) :
    CurrentWalk 1 walkOp3 request3 walk3 [] (walking { active with state := st, inFlight := n }) :=
  current_walk ⟨rfl, rfl, rfl, rfl, rfl, rfl, rfl⟩ ⟨rfl, rfl, rfl⟩ no_rest

theorem no_owners (a : Aperture) : NoOwners [] (walking a) :=
  ⟨rfl, fun n => show State.reset.slot n = none by revert n; decide +kernel, by intro y h; cases h⟩

/-- A write of one byte at offset 0x2FFF that waits on its translation. -/
def waitingEntry (w : Waiting) : PostEntry where
  core := { requester := 2, address := 0x1000002FFF, length := 1, place := some { aperture := 3, offset := 0x2FFF }
            progress := some { nextPiece := 0, nextOffset := 0x2FFF, endOffset := 0x3000, generation := 0, waiting := w }
            age := 0 }
  sequence := 1
  data := [0xAB]
  state := .translating

theorem translating (w : Waiting) : Translating (waitingEntry w)
    { nextPiece := 0, nextOffset := 0x2FFF, endOffset := 0x3000, generation := 0, waiting := w }
    { aperture := 3, offset := 0x2FFF } :=
  ⟨rfl, rfl, rfl, rfl, (by intro z h; cases h), rfl⟩

/-- It waits on the walk of an aperture in a state, or is unqueued. -/
def awaiting (a : Aperture) : State :=
  let s := walking a
  updReq 2 (fun q => { q with taken := 1, queuedWrites := 1 })
    { s with missQueue := [{ request3 with waiters := [((waitingEntry .attached).ref, 0)] }]
             postQueue := [waitingEntry .attached], nextAge := 1 }

def awaited : State := awaiting { active with inFlight := 1 }

def unoffered : State :=
  updReq 2 (fun q => { q with taken := 1, queuedWrites := 1 })
    { open3 { active with inFlight := 1 } with
      unqueued := [{ owner := (waitingEntry .unqueued).ref, piece := 0, aperture := 3, generation := 0, offset := 0x2FFF }]
      postQueue := [waitingEntry .unqueued], nextAge := 1 }

theorem no_ops {o : OwnerRef} {s : State} (ht : ∀ u : TagId, s.tag u = .free ∨ s.tag u = .outstanding walkOp3)
    (hp : s.parked = []) : NoOps o s := by
  refine ⟨fun u op j h => ?_, by rw [hp]; intro z h; cases h⟩
  rcases ht u with e | e
  · rw [e] at h; cases h
  · rw [e] at h; cases h; intro h; cases h

/-- The request of `awaited`. -/
def awaitedRequest : WalkRequest := { request3 with waiters := [((waitingEntry .attached).ref, 0)] }

/-- The cache before the walk, or with the same extent already there, of another length. -/
def refreshed : State :=
  setCached 5 { valid := true, aperture := 3, start := 0, length := 0x1000, target := 0x80000000, rank := 5 }
    (walking active)

/-- A walk at entry 1, the first of a line of four of 0x3000 bytes each, with stride 1: in a list of `count` entries, with
the checkpoint of entry 2 at an offset and those of entries 3 and 4 true, for a target. -/
def walkLine1 (count : Nat) : Walk := { walk3 with entryCount := count, index := 1, offset := 0x3000, startIndex := 1 }
def requestLine1 (count target : Nat) : WalkRequest := { request3 with target := target, walk := some (walkLine1 count) }
def opLine1 : Op := { walkOp3 with address := 0x40040, length := 64 }
def line1 : Lanes := lanesOfBytes 0x40040
  ((List.range 4).flatMap fun i => entryBytes (0x80000000 + 0x10000 * i) 0x300 0 0x5A)
def places1 (second : Nat) : Checkpoints :=
  ((((Vector.replicate 32 none).set 0 (some 0)).set 2 (some second)).set 3 (some 0x9000)).set 4 (some 0xC000)
def walkingLine1 (count target second : Nat) : State :=
  setPlaces 3 (places1 second) (setTag 1 (.outstanding opLine1) { open3 { active with entryCount := count } with
    missQueue := [requestLine1 count target] })

theorem current_line1 (count target second : Nat) :
    CurrentWalk 1 opLine1 (requestLine1 count target) (walkLine1 count) [] (walkingLine1 count target second) :=
  current_walk ⟨rfl, rfl, rfl, rfl, rfl, rfl, rfl⟩ ⟨rfl, rfl, rfl⟩ no_rest

theorem no_owners_line1 (count target second : Nat) : NoOwners [] (walkingLine1 count target second) :=
  ⟨rfl, fun n => show State.reset.slot n = none by revert n; decide +kernel, by intro y h; cases h⟩

/-- A walk passes entries when it passes each of those that there are, by number. -/
theorem passes_by {w : WalkRequest} {x : Walk} {places : Checkpoints} {es : List RawEntry} {m : Nat} (hm : m ≤ es.length)
    (h : ∀ j < m, ∀ en ∈ es[j]?, let o := x.offset + lengthOf (es.take j)
      (x.index + j) % x.stride = 0 ∧ (x.index + j = x.startIndex ∨ places[(x.index + j) / x.stride]? = some (some o)) ∧
      checkEntry x.listTag en = none ∧ (w.target < o ∨ o + 16 * en.units ≤ w.target) ∧ x.index + j + 1 ≠ x.entryCount) :
    PassesTo w x places es m := by
  refine ⟨hm, fun j en hj he => ?_⟩
  obtain ⟨-, h2, h3, h4, h5⟩ := h j hj en he
  exact ⟨fun _ hs => h2.resolve_left hs, h3, fun hc => by rcases hc with ⟨ha, hb⟩; omega, h5⟩

/-- Entry 3 of a list, found past entries 1 and 2; the entry at the walk's own index, up to its last byte; a waiting write
in it, up to its last byte; and a whole line passed. -/
theorem witness_AFindIsInstalled :
    (∀ s ∈ [walking active, refreshed], (s.ap 3).state = .active) ∧
    CurrentWalk 1 walkOp3 request3 walk3 [] (walking active) ∧ NoOwners [] (walking active) ∧
    CurrentWalk 1 walkOp3 request3 walk3 [] refreshed ∧
    (∃ en, FindsAt request3 walk3 ((walking active).places 3) (walkEntries walkOp3 goodLine) 0 en ∧
      request3.target + 1 = walk3.offset + 16 * en.units ∧ en.kindCode = 0) ∧
    (CurrentWalk 1 opLine1 (requestLine1 5 0x9000) (walkLine1 5) [] (walkingLine1 5 0x9000 0x6000) ∧
      ∃ en, FindsAt (requestLine1 5 0x9000) (walkLine1 5) ((walkingLine1 5 0x9000 0x6000).places 3)
        (walkEntries opLine1 line1) 2 en) ∧
    (CurrentWalk 1 opLine1 (requestLine1 6 0xF000) (walkLine1 6) [] (walkingLine1 6 0xF000 0x6000) ∧
      NoOwners [] (walkingLine1 6 0xF000 0x6000) ∧ (walkEntries opLine1 line1).length = 4 ∧
      PassesTo (requestLine1 6 0xF000) (walkLine1 6) ((walkingLine1 6 0xF000 0x6000).places 3)
        (walkEntries opLine1 line1) 4) ∧
    (CurrentWalk 1 walkOp3 awaitedRequest walk3 [] awaited ∧ (awaited.ap 3).state = .active ∧
      awaited.postQueue = [waitingEntry .attached] ∧ (∀ n, awaited.slot n = none) ∧ awaited.parked = [] ∧
      Lowest .data 4 awaited ∧
      Translating (waitingEntry .attached)
        { nextPiece := 0, nextOffset := 0x2FFF, endOffset := 0x2FFF + (waitingEntry .attached).core.length
          generation := 0, waiting := .attached } { aperture := 3, offset := 0x2FFF }) :=
  ⟨by decide +kernel, one_walk .active 0, no_owners _,
    current_walk ⟨rfl, rfl, rfl, rfl, rfl, rfl, rfl⟩ ⟨rfl, rfl, rfl⟩ no_rest,
    ⟨_, ⟨passes_by (by decide) (by decide), rfl, by unfold OnCheckpoint; decide +kernel, by decide +kernel,
      by unfold CoversTarget; decide +kernel⟩, by decide +kernel, by decide +kernel⟩,
    ⟨current_line1 _ _ _, _, passes_by (by decide +kernel) (by decide +kernel), rfl,
      by unfold OnCheckpoint; decide +kernel, by decide +kernel, by unfold CoversTarget; decide +kernel⟩,
    ⟨current_line1 _ _ _, no_owners_line1 _ _ _, by decide +kernel, passes_by (by decide +kernel) (by decide +kernel)⟩,
    current_walk ⟨rfl, rfl, rfl, rfl, rfl, rfl, rfl⟩ ⟨rfl, rfl, rfl⟩ no_rest, by decide +kernel, by decide +kernel,
    by decide +kernel, by decide +kernel, lowest4 (by decide +kernel), translating _⟩

/-- A slot of requester 6 of aperture 3, TRANSLATING, its first piece translated, its second attached. -/
def waitingSlot : Slot where
  core := { requester := 6, address := 0x10000001F8, length := 16, place := some { aperture := 3, offset := 0x1F8 }
            progress := some { nextPiece := 1, nextOffset := 0x200, endOffset := 0x208, generation := 0, waiting := .attached }
            pieces := [halfPiece 0 .pending], age := 1 }
  fence := 0
  fenceMet := true
  state := .translating

/-- The walk of `awaited`, and behind it a QUEUED request on which the slot waits. -/
def stranded : State :=
  let s := awaiting { active with inFlight := 2 }
  setSlot 7 (some waitingSlot) { s with
    missQueue := [awaitedRequest, { request3 with walk := none, target := 0x200, waiters := [(.slot 7, 1)] }], nextAge := 2 }

/-- A READY slot of aperture 3, and the walk of a DRAINING one with it left; with the waiting write as well. -/
def readyAp3 : Slot := { waitingSlot with
  state := .ready, core := { waitingSlot.core with progress := none, generation := some 0, pieces := [halfPiece 0 (.read [])] } }
def drainingWalk : State := setSlot 7 (some readyAp3) (walking { active with state := .draining, inFlight := 1 })
def drainingWait : State := setSlot 7 (some readyAp3) (awaiting { active with state := .draining, inFlight := 2 })

/-- The walk of a FAULTED or DRAINING aperture that a fault has marked. -/
def droppedWalk (st : ApState) : State :=
  setSlot 7 (some readyAp3)
    { walking { active with state := st, inFlight := 1 } with missQueue := [{ request3 with dropped := true }] }

theorem dropped_walk (st : ApState) : Walking 1 walkOp3 { request3 with dropped := true } walk3 [] (droppedWalk st) :=
  ⟨rfl, rfl, rfl, rfl, rfl, no_rest, rfl, rfl, rfl, rfl, rfl, rfl⟩

/-- The walk of a VALIDATING aperture, its job running with its line in flight, or waiting behind another's. -/
def faultedJob (behind : Bool) : State :=
  let s := walking { active with state := .rebinding .validating, pendingList := some (job3 .rebind).list }
  let first : Job := { job3 .load with aperture := 4 }
  setTag 3 (if behind then .outstanding { lineOp3 with owner := none, cancelled := true } else .free)
    (setTag 2 (.outstanding lineOp3) { s with
      jobs := if behind then [first, { job3 .rebind with running := false }] else [job3 .rebind]
      validation := some (firstRecord (job3 .rebind).list 1) })

/-- The write of `awaiting`, with a piece translated before, behind an ISSUED one of its requester. -/
def laterEntry : PostEntry :=
  let e := waitingEntry .attached
  { e with sequence := 2, core := { e.core with
      address := 0x1000002FFE, length := 2, place := some { aperture := 3, offset := 0x2FFE }, age := 1
      pieces := [{ halfPiece 0 .pending with length := 1 }]
      progress := some { nextPiece := 1, nextOffset := 0x2FFF, endOffset := 0x3000, generation := 0, waiting := .attached } } }
def behindIssued : State :=
  { setTag 4 (.outstanding writeOp2) (awaiting { active with inFlight := 1 }) with
    missQueue := [{ request3 with waiters := [(laterEntry.ref, 1)] }], postQueue := [issuedEntry, laterEntry], nextAge := 2 }

theorem later_translating : Translating laterEntry
    { nextPiece := 1, nextOffset := 0x2FFF, endOffset := 0x3000, generation := 0, waiting := .attached }
    { aperture := 3, offset := 0x2FFE } :=
  ⟨rfl, rfl, rfl, rfl, by decide, rfl⟩

theorem no_later_ops : NoOps laterEntry.ref behindIssued := by
  refine ⟨fun u op j h ho => ?_, by intro z h; cases h⟩
  have ht : ∀ u, behindIssued.tag u = .free ∨ behindIssued.tag u = .outstanding walkOp3 ∨
      behindIssued.tag u = .outstanding writeOp2 := by decide +kernel
  rcases ht u with e | e | e <;> rw [e] at h <;> cases h <;>
    simp [walkOp3, writeOp2, PostEntry.ref, laterEntry, waitingEntry] at ho

/-- The walk's own entry, not valid. -/
theorem finds_bad {w : WalkRequest} {places : Checkpoints} :
    FindsWrong w walk3 places (walkEntries walkOp3 badLine) .badEntry (some .notValid) 0 :=
  ⟨0, _, passes_by (by decide) (by intro j hj; omega), rfl,
    .inr ⟨fun _ hs => absurd rfl hs, .inl ⟨.notValid, by decide +kernel, rfl, rfl, rfl⟩⟩⟩

/-- The three findings: a bad entry, a checkpoint that no longer holds, and a list that ends too soon. -/
theorem witness_AFindingFaultsTheAperture :
    (FindsWrong request3 walk3 ((walking active).places 3) (walkEntries walkOp3 badLine) .badEntry (some .notValid) 0 ∧
      FindsWrong (requestLine1 5 0x9000) (walkLine1 5) ((walkingLine1 5 0x9000 0x5FF0).places 3)
        (walkEntries opLine1 line1) .listChanged none 2 ∧
      FindsWrong (requestLine1 5 0xF000) (walkLine1 5) ((walkingLine1 5 0xF000 0x6000).places 3)
        (walkEntries opLine1 line1) .listChanged none 4 ∧
      ∀ q ∈ [(0x9000, 0x5FF0), (0xF000, 0x6000)],
        CurrentWalk 1 opLine1 (requestLine1 5 q.1) (walkLine1 5) [] (walkingLine1 5 q.1 q.2) ∧
        NoOwners [] (walkingLine1 5 q.1 q.2) ∧ ((walkingLine1 5 q.1 q.2).ap 3).state = .active) ∧
    (∀ st ∈ [ApState.active, .rebinding .settling],
      CurrentWalk 1 walkOp3 request3 walk3 [] (walking { active with state := st }) ∧
      NoOwners [] (walking { active with state := st })) ∧
    (∀ b, CurrentWalk 1 walkOp3 request3 walk3 [] { faultedJob b with jobs := [], validation := none } ∧
      NoOwners [] (faultedJob b) ∧ ((faultedJob b).ap 3).state = .rebinding .validating) ∧
    ((faultedJob false).jobs = [job3 .rebind] ∧ (job3 .rebind).aperture = 3 ∧ (job3 .rebind).running = true ∧
      (faultedJob true).jobs = { job3 .load with aperture := 4 } :: ([] ++ { job3 .rebind with running := false } :: []) ∧
      NoneFree .validation (faultedJob true)) ∧
    (CurrentWalk 1 walkOp3 awaitedRequest walk3
        [{ request3 with walk := none, target := 0x200, waiters := [(.slot 7, 1)] }] stranded ∧
      (stranded.ap 3).state = .active ∧ stranded.postQueue = [waitingEntry .attached] ∧
      NoOps (waitingEntry .attached).ref stranded ∧ NoOps (.slot 7) stranded ∧ stranded.slot 7 = some waitingSlot ∧
      (∀ m, m ≠ 7 → stranded.slot m = none) ∧ (waitingEntry .attached).core.age ≠ waitingSlot.core.age ∧
      stranded.reports.length < 14) ∧
    (CurrentWalk 1 walkOp3 { request3 with waiters := [(laterEntry.ref, 1)] } walk3 [] behindIssued ∧
      (behindIssued.ap 3).state = .active ∧ behindIssued.postQueue = [issuedEntry, laterEntry] ∧
      issuedEntry.core.requester = laterEntry.core.requester ∧ issuedEntry.sequence ≠ laterEntry.sequence ∧
      (∀ q ∈ issuedEntry.core.pieces, q.state = .issued) ∧ NoOps laterEntry.ref behindIssued ∧
      (∀ n, behindIssued.slot n = none) ∧ behindIssued.parked = []) ∧
    (CurrentWalk 1 walkOp3 request3 walk3 [] drainingWalk ∧ (drainingWalk.ap 3).state = .draining ∧
      inFlightCounted drainingWalk ∧ waitingRead drainingWalk = none ∧ drainingWalk.slot 7 = some readyAp3) ∧
    (CurrentWalk 1 walkOp3 awaitedRequest walk3 [] drainingWait ∧ (drainingWait.ap 3).state = .draining ∧
      inFlightCounted drainingWait ∧ waitingRead drainingWait = none ∧ drainingWait.slot 7 = some readyAp3 ∧
      readyAp3.fenceMet = true ∧ NoOps (waitingEntry .attached).ref drainingWait) ∧
    ∀ st ∈ [ApState.faulted, .draining],
      Walking 1 walkOp3 { request3 with dropped := true } walk3 [] (droppedWalk st) ∧
      ((droppedWalk st).ap 3).state = st ∧ inFlightCounted (droppedWalk st) ∧
      waitingRead (droppedWalk st) = none :=
  ⟨⟨finds_bad,
      ⟨1, _, passes_by (by decide +kernel) (by decide +kernel), rfl,
        .inl ⟨by unfold OnCheckpoint; decide +kernel, rfl, rfl, rfl⟩⟩,
      ⟨3, _, passes_by (by decide +kernel) (by decide +kernel), rfl,
        .inr ⟨by unfold OnCheckpoint; decide +kernel,
          .inr ⟨by decide +kernel, by unfold CoversTarget; decide +kernel, rfl, rfl, rfl, rfl⟩⟩⟩,
      fun q _ => ⟨current_line1 _ _ _, no_owners_line1 _ _ _, rfl⟩⟩,
    fun st _ => ⟨one_walk st 0, no_owners _⟩,
    fun b => ⟨current_walk ⟨rfl, rfl, rfl, rfl, rfl, by cases b <;> rfl, rfl⟩ ⟨rfl, rfl, rfl⟩ no_rest,
      ⟨rfl, fun n => show State.reset.slot n = none by revert n; decide +kernel, by intro y h; cases h⟩, rfl⟩,
    ⟨rfl, rfl, rfl, rfl, by unfold NoneFree; decide +kernel⟩,
    ⟨current_walk ⟨rfl, rfl, rfl, rfl, rfl, rfl, rfl⟩ ⟨rfl, rfl, rfl⟩
        (by intro y h z hz; simp only [List.mem_singleton] at h; rw [h] at hz; cases hz),
      by decide +kernel, by decide +kernel, no_ops (by decide +kernel) rfl, no_ops (by decide +kernel) rfl,
      by decide +kernel, by decide +kernel, by decide, by decide⟩,
    ⟨current_walk ⟨rfl, rfl, rfl, rfl, rfl, rfl, rfl⟩ ⟨rfl, rfl, rfl⟩ no_rest, rfl, rfl, rfl, by decide, by decide,
      no_later_ops,
      by decide +kernel, rfl⟩,
    ⟨current_walk ⟨rfl, rfl, rfl, rfl, rfl, rfl, rfl⟩ ⟨rfl, rfl, rfl⟩ no_rest, by decide +kernel,
      by unfold inFlightCounted; decide +kernel, by decide +kernel, by decide +kernel⟩,
    ⟨current_walk ⟨rfl, rfl, rfl, rfl, rfl, rfl, rfl⟩ ⟨rfl, rfl, rfl⟩ no_rest, by decide +kernel,
      by unfold inFlightCounted; decide +kernel, by decide +kernel, by decide +kernel, rfl,
      no_ops (by decide +kernel) rfl⟩,
    by
      intro st h
      simp only [List.mem_cons, List.not_mem_nil, or_false] at h
      rcases h with rfl | rfl <;>
        exact ⟨dropped_walk _, by decide +kernel, by unfold inFlightCounted; decide +kernel, by decide +kernel⟩⟩

theorem witness_AFailedWalkReadLosesItsWaiter :
    CurrentWalk 1 walkOp3 awaitedRequest walk3 [] awaited ∧ awaited.postQueue = [waitingEntry .attached] ∧
    awaitedRequest.waiters = [((waitingEntry .attached).ref, 0)] ∧
    Translating (waitingEntry .attached)
      { nextPiece := 0, nextOffset := 0x2FFF, endOffset := 0x3000, generation := 0, waiting := .attached }
      { aperture := 3, offset := 0x2FFF } ∧
    NoOps (waitingEntry .attached).ref awaited ∧ (∀ n, awaited.slot n = none) ∧ (awaited.ap 3).state = .active ∧
    Fails 1 walkOp3 (.responseError 1 2) .memoryError .free awaited ∧
    Fails 1 walkOp3 (.responseTimeout 1) .responseTimeout (.quarantined walkOp3.fields) awaited :=
  ⟨current_walk ⟨rfl, rfl, rfl, rfl, rfl, rfl, rfl⟩ ⟨rfl, rfl, rfl⟩ no_rest, by decide +kernel, by decide +kernel,
    translating _, no_ops (by decide +kernel) rfl, by decide +kernel, by decide +kernel, .inl ⟨2, rfl, rfl, rfl⟩,
    .inr (.inr ⟨rfl, rfl, rfl⟩)⟩

theorem witness_UnqueuedPiecesAreOfferedAgain :
    (∀ s ∈ [unoffered, setTag 0 (.quarantined {}) (setTag 1 (.quarantined {}) unoffered)],
      s.quiescing = false ∧ (∃ u, s.unqueued = [u] ∧ u.owner = (waitingEntry .unqueued).ref) ∧
      s.postQueue = [waitingEntry .unqueued] ∧ (∀ n, s.slot n = none) ∧ s.missQueue = [] ∧ s.jobs = [] ∧
      s.parked = [] ∧ ∀ i, ¬((s.cached i).hits 3 (s.ap 3).generation 0x2FFF = true)) ∧
    engineAvailable 0 unoffered = true ∧
    (∀ e, engineAvailable e (setTag 0 (.quarantined {}) (setTag 1 (.quarantined {}) unoffered)) = false) ∧
    NothingWaits State.reset := by
  refine ⟨?_, by decide +kernel, by decide +kernel, nothing_waits rfl rfl rfl rfl (by decide +kernel)⟩
  intro s hs
  simp only [List.mem_cons, List.not_mem_nil, or_false] at hs
  rcases hs with rfl | rfl <;>
    exact ⟨by decide +kernel, ⟨_, rfl, by decide +kernel⟩, by decide +kernel, by decide +kernel, by decide +kernel,
      by decide +kernel, by decide +kernel, by decide +kernel⟩

/-- The longest extent of R176 that the field can spell. -/
theorem witness_EntryChecksAndLayout : 2 ^ 24 - 1 < 2 ^ 24 := by decide

/-- Sixteen bytes that pass R8 and end exactly at the window's end. -/
def goodEntry : RawEntry := decodeEntry (entryBytes 0x80000000 0x300 0 0x5A)

theorem witness_AListPassesEntryByEntry :
    let v := firstRecord { address := 0x40030, count := 1, tag := 0x5A } 1
    (∀ e ∈ [goodEntry], checkEntry 0x5A e = none) ∧ v.offset + lengthOf [goodEntry] ≤ 0x3000 ∧
    (∃ w, checkEntries 0x5A 0x3000 [goodEntry] v = .passed w) ∧
    (checkEntry 0x5B goodEntry = some .tagMismatch ∧ v.offset + lengthOf [] ≤ 0) ∧
    (v.offset + lengthOf ([goodEntry, goodEntry].take 1) ≤ 0x5FFF ∧
      0x5FFF < v.offset + lengthOf ([goodEntry, goodEntry].take (1 + 1))) :=
  ⟨by decide +kernel, by decide +kernel, ⟨_, rfl⟩, by decide +kernel, by decide +kernel⟩

/-- A job of some entries that waits at the head. -/
def jobbed (count : Nat) : State :=
  { open3 { active with state := .loading } with
    jobs := [{ aperture := 3, purpose := .load, list := { address := 0x40030, count := count, tag := 0x5A }, running := false }] }

/-- The same running, line 0 processed and line 1 not. -/
def running2 : State :=
  { jobbed 6 with
    jobs := [{ aperture := 3, purpose := .load, list := { address := 0x40030, count := 6, tag := 0x5A }, running := true }]
    validation := some { firstRecord { address := 0x40030, count := 6, tag := 0x5A } 2 with nextProcess := 1, unprocessed := 1 } }

/-- A LOAD of 20 entries: line 0, the read of one entry, in flight under tag 3; line 1 in flight under tag 2, or held. -/
def job20 : Job := { job3 .load with list := { address := 0x40030, count := 20, tag := 0x5A } }
def record20 (held : Option (Nat × List Byte)) : Validation :=
  { firstRecord { address := 0x40030, count := 20, tag := 0x5A } 2 with held := held }
def lineOpOf (k : Nat) : Op := { lineRead job20 k with timer := 64 }
def inOrder (held : Option (Nat × List Byte)) : State :=
  setTag 2 (if held.isSome then .free else .outstanding (lineOpOf 1)) (setTag 3 (.outstanding (lineOpOf 0))
    { open3 { active with state := .loading } with jobs := [job20], validation := some (record20 held) })

/-- Line 1's read has failed out of turn. -/
def record20Failed : Validation := { record20 none with failure := some { line := 1, cause := .memoryError, tag := 2 } }
def inOrderFailed : State := setTag 2 .free { inOrder none with validation := some record20Failed }

/-- Four entries that are not valid. -/
def badLine4 : List Byte := List.replicate 64 0

/-- Line 0 passes, not ending the list, and line 1 then fails. -/
def goodThenBad (h : Option (Nat × List Byte)) : Bool :=
  let window := ((inOrder h).ap 3).windowSize
  match checkEntries 0x5A window
      (entriesAt job20 0 (bytesOfLanes (lineOpOf 0).address (lineOpOf 0).length goodLine)) (record20 h) with
  | .passed w => w.nextEntry != 20 &&
    (match checkEntries 0x5A window (entriesAt job20 1 badLine4) w with | .failed _ => true | .passed _ => false)
  | .failed _ => false

theorem line_in (h : Option (Nat × List Byte)) :
    LineIn 3 0 (lineOpOf 0) job20 (record20 h) (inOrder h) ∧ NoTraffic (inOrder h) :=
  ⟨⟨rfl, rfl, rfl, rfl, rfl, rfl, rfl, rfl⟩,
    ⟨rfl, fun n => show State.reset.slot n = none by revert n; decide +kernel, rfl⟩⟩

/-- The read after a good line goes out although the held line then ends the job (R32, R40). -/
theorem test_read_goes_out_before_the_held_line :
    let t := after (.responseOk 3 goodLine) (inOrder (some (1, badLine4)))
    t.out.mem.map (fun m => (m.tag, m.address, m.length)) = [(2, 0x40080, 64)] ∧ (t.ap 3).state = .free ∧ t.jobs = [] := by
  decide +kernel

theorem witness_JobsStartAndReadTheirLists :
    (∀ n ∈ [1, 2], (jobbed n).parked = [] ∧ (jobbed n).tag 2 = .free ∧ (jobbed n).tag 3 = .free ∧
      (jobbed n).jobs.map (·.list.count) = [n] ∧ (jobbed n).jobs.map (·.running) = [false]) ∧
    ((0x40030 + 16 * (1 - 1)) / 64 - 0x40030 / 64 = 0 ∧ 0 < (0x40030 + 16 * (2 - 1)) / 64 - 0x40030 / 64) ∧
    Lowest .validation 2 running2 ∧
    (∃ v, running2.validation = some v ∧ v.failure = none ∧ v.unprocessed = 1 ∧
      v.nextIssue = (0x40030 + 16 * (6 - 1)) / 64 - 0x40030 / 64) ∧
    State.reset.jobs = [] ∧ State.reset.parked = [] ∧
    (∀ h, LineIn 3 0 (lineOpOf 0) job20 (record20 h) (inOrder h) ∧ NoTraffic (inOrder h)) ∧
    (LineIn 2 1 (lineOpOf 1) job20 (record20 none) (inOrder none) ∧ 1 ≠ (record20 none).nextProcess ∧
      (record20 none).unprocessed = 2 ∧ Fails 2 (lineOpOf 1) (.responseError 2 2) .memoryError .free (inOrder none)) ∧
    (LastLine 3 (lineOpOf 0) job20 record20Failed inOrderFailed ∧ NoTraffic inOrderFailed ∧
      (inOrderFailed.ap 3).state = .loading ∧
      (match checkEntries 0x5A (inOrderFailed.ap 3).windowSize
        (entriesAt job20 0 (bytesOfLanes (lineOpOf 0).address (lineOpOf 0).length goodLine)) record20Failed with
      | .passed w => w.nextEntry != 20
      | .failed _ => false) = true) ∧
    (∀ h ∈ [none, some (1, badLine4)], goodThenBad h = true) ∧
    (∃ j js v, (validating active .load).jobs = j :: js ∧ (validating active .load).validation = some v ∧
      (validating active .load).parked = [] ∧ lastLine j + 1 = v.nextIssue) ∧
    (record20 none).nextIssue ≤ lastLine job20 ∧ (inOrder none).tag 2 ≠ .free ∧
    (inOrder (some (1, badLine4))).tag 2 = .free ∧ ((inOrder none).ap 3).state = .loading ∧
    NoneFree .validation (setTag 2 (.quarantined {}) (setTag 3 (.quarantined {}) State.reset)) :=
  ⟨by decide +kernel, by decide, by unfold Lowest; decide +kernel, ⟨_, rfl, by decide +kernel⟩, by decide, by decide,
    line_in, ⟨⟨rfl, rfl, rfl, rfl, rfl, rfl, rfl, rfl⟩, by decide, by decide, .inl ⟨2, rfl, rfl, rfl⟩⟩,
    ⟨⟨⟨rfl, rfl, rfl, rfl, rfl, rfl, rfl, rfl⟩, fun u op k h1 h2 =>
        only_tag (t := 3) (P := fun op => op.owner = some (.line k)) (by decide +kernel) u op h1 h2, rfl⟩,
      ⟨rfl, fun n => show State.reset.slot n = none by revert n; decide +kernel, rfl⟩, rfl, by decide +kernel⟩,
    by decide +kernel, ⟨_, _, _, rfl, rfl, rfl, by decide +kernel⟩, by decide +kernel, by decide +kernel,
    by decide +kernel, by decide +kernel, by unfold NoneFree; decide +kernel⟩

theorem last_line (a : Aperture) (p : Purpose) :
    LastLine 2 lineOp3 (job3 p) (firstRecord { address := 0x40030, count := 1, tag := 0x5A } 1) (validating a p) where
  up := rfl
  going := rfl
  jobs := rfl
  record := rfl
  line := rfl
  tag := rfl
  live := rfl
  only := fun u op k h1 h2 => by
    refine only_tag (t := 2) (P := fun op => op.owner = some (.line k)) (fun u hu => ?_) u op h1 h2
    have h : ∀ u : TagId, u ≠ 2 → (setTag 2 (.outstanding lineOp3) State.reset).tag u = .free := by decide +kernel
    exact h u hu
  unqueued := rfl
  parked := rfl

theorem no_traffic (a : Aperture) (p : Purpose) : NoTraffic (validating a p) :=
  ⟨rfl, fun n => show State.reset.slot n = none by revert n; decide +kernel, rfl⟩

/-- The window of 16 pages is ended exactly by a list of 0x1000 units. -/
def fullLine : Lanes := lanesOfBytes 0x40030 (entryBytes 0x80000000 0x1000 0 0x5A)

/-- Whether a line of validation entries passes, ending the list. -/
def wholeList (lanes : Lanes) (p : Purpose) : Bool :=
  let v := firstRecord { address := 0x40030, count := 1, tag := 0x5A } 1
  match checkEntries 0x5A active.windowSize (lineEntries lineOp3 (job3 p) v lanes) v with
  | .passed w => w.nextEntry == 1
  | .failed _ => false

theorem witness_ALoadJobEndsActiveOrFree :
    LastLine 2 lineOp3 (job3 .load) (firstRecord { address := 0x40030, count := 1, tag := 0x5A } 1)
      (validating { active with state := .loading } .load) ∧ NoTraffic (validating { active with state := .loading } .load) ∧
    (job3 .load).purpose = .load ∧ ((validating { active with state := .loading } .load).ap 3).state = .loading ∧
    wholeList fullLine .load = true ∧ wholeList badLine .load = false ∧
    Fails 2 lineOp3 (.responseError 2 2) .memoryError .free (validating active .load) ∧
    Fails 2 lineOp3 (.responseTimeout 2) .responseTimeout (.quarantined lineOp3.fields) (validating active .load) ∧
    Fails 2 { lineOp3 with retries := 15 } (.responseBusy 2) .retryExhausted .free (validating active .load) :=
  ⟨last_line _ _, no_traffic _ _, rfl, by decide +kernel, by decide +kernel, by decide +kernel, .inl ⟨2, rfl, rfl, rfl⟩,
    .inr (.inr ⟨rfl, rfl, rfl⟩), .inr (.inl ⟨rfl, by decide, by decide, rfl, rfl⟩)⟩

/-- An aperture that validates the list of a REBIND. -/
def rebinding (n : Nat) : State :=
  validating { active with state := .rebinding .validating, inFlight := n
                           pendingList := some { address := 0x40030, count := 1, tag := 0x5A } } .rebind

/-- A write and a read of aperture 3 in flight, both pieces of each. -/
def flyingEntry : PostEntry := twoPieces .issued .issued none
def flyingSlot : Slot := twoReads .reading .issued

/-- They, and a write TRANSLATING on the running walk, as the REBIND's last line comes in. -/
def rebindingFlight : State :=
  setSlot 7 (some flyingSlot) { rebinding 2 with postQueue := [flyingEntry], nextAge := 1 }
def rebindingWait : State :=
  setTag 1 (.outstanding walkOp3)
    { rebinding 1 with postQueue := [waitingEntry .attached], missQueue := [awaitedRequest], nextAge := 1 }

theorem last_line_of {s : State}
    (h : s.resetLow = false ∧ s.quiescing = false ∧ s.jobs = [job3 .rebind] ∧
      s.validation = some (firstRecord { address := 0x40030, count := 1, tag := 0x5A } 1) ∧
      s.tag 2 = .outstanding lineOp3 ∧ s.unqueued = [] ∧ s.parked = [])
    (ht : ∀ u : TagId, u = 2 ∨ s.tag u = .free ∨ s.tag u = .outstanding walkOp3) :
    LastLine 2 lineOp3 (job3 .rebind) (firstRecord { address := 0x40030, count := 1, tag := 0x5A } 1) s where
  up := h.1
  going := h.2.1
  jobs := h.2.2.1
  record := h.2.2.2.1
  line := rfl
  tag := h.2.2.2.2.1
  live := rfl
  parked := h.2.2.2.2.2.2
  unqueued := h.2.2.2.2.2.1
  only := by
    intro u op k hu ho
    rcases ht u with e | e | e
    · exact e
    · rw [e] at hu; cases hu
    · rw [e] at hu; cases hu; cases ho

theorem witness_ARebindJobSwitchesOrKeeps :
    (∀ s ∈ [rebinding 0, rebindingFlight, rebindingWait],
      LastLine 2 lineOp3 (job3 .rebind) (firstRecord { address := 0x40030, count := 1, tag := 0x5A } 1) s ∧
      (s.ap 3).state = .rebinding .validating ∧ (s.ap 3).generation = 0 ∧ (s.ap 3).windowSize = active.windowSize) ∧
    (job3 .rebind).purpose = .rebind ∧ wholeList fullLine .rebind = true ∧ wholeList badLine .rebind = false ∧
    NoTraffic (rebinding 0) ∧
    (rebindingFlight.postQueue = [flyingEntry] ∧ rebindingFlight.slot 7 = some flyingSlot ∧
      (∀ m, m ≠ 7 → rebindingFlight.slot m = none) ∧ rebindingFlight.missQueue = [] ∧
      InFlightUnder 3 0 flyingEntry.core ∧ InFlightUnder 3 0 flyingSlot.core ∧
      ∃ p ∈ flyingSlot.core.pieces, p.kind = .map ∨ p.kind = .rom) ∧
    (rebindingWait.postQueue = [waitingEntry .attached] ∧ (∀ n, rebindingWait.slot n = none) ∧
      rebindingWait.missQueue = [awaitedRequest] ∧ awaitedRequest.walk.isSome = true ∧
      Translating (waitingEntry .attached)
        { nextPiece := 0, nextOffset := 0x2FFF, endOffset := 0x3000, generation := 0, waiting := .attached }
        { aperture := 3, offset := 0x2FFF } ∧
      0x2FFF + (waitingEntry .attached).core.length ≤ 16 * 0x1000) ∧
    Fails 2 lineOp3 (.responseError 2 2) .memoryError .free (rebinding 0) := by
  refine ⟨?_, rfl, by decide +kernel, by decide +kernel, no_traffic _ _,
    ⟨by decide +kernel, by decide +kernel, by decide +kernel, by decide +kernel,
      ⟨rfl, rfl, rfl, by decide +kernel, rfl⟩, ⟨rfl, rfl, rfl, by decide +kernel, rfl⟩, by decide +kernel⟩,
    ⟨by decide +kernel, by decide +kernel, by decide +kernel, by decide, translating _, by decide⟩,
    .inl ⟨2, rfl, rfl, rfl⟩⟩
  intro s hs
  simp only [List.mem_cons, List.not_mem_nil, or_false] at hs
  rcases hs with rfl | rfl | rfl <;>
    exact ⟨last_line_of (by decide +kernel) (by decide +kernel), by decide +kernel, by decide +kernel, by decide +kernel⟩

theorem witness_FramesAreCheckedInOrder :
    State.reset.resetLow = false ∧ (Instr.badFrame 1 [] 0x14).wf = true ∧ (Instr.unknownCommand 0x3D [1]).wf = true ∧
    (Instr.incompleteFrame [0x20]).wf = true ∧ (0x20 : Byte) ≠ 0x00 ∧
    (⟨.retire [16], 0x12, 1, true, true⟩ : FrameRow) ∈ frameRows [16] ∧ 15 < (byteAt [16] 0).toNat ∧
    (let s : State := { State.reset with quiescing := true }; s.resetLow = false ∧ s.quiescing = true) :=
  ⟨by decide, by decide +kernel, by decide +kernel, by decide +kernel, by decide, by simp [frameRows], by decide +kernel,
    by decide⟩

theorem witness_FetchClocksOutTheResponse :
    State.reset.resetLow = false ∧ State.reset.response = none ∧ (0x01 : Byte) ≠ 0 ∧ (0 : Byte) = crc8 [0x00, 0x00] ∧
    (after (.ident []) State.reset).response = some { answer := .ok, command := 0x01, results := [0x16, 1, 16, 32, 16, 8, 16] } := by
  decide +kernel

theorem witness_RecordsHoldTheirFields :
    active.windowSize < 2 ^ 36 ∧ active.entryCount < 2 ^ 16 ∧ active.mappedLength < 2 ^ 40 ∧ active.faultCount < 256 ∧
    active.resume = none ∧ active.pendingList = none ∧ active.stride < 256 ∧ active.inFlight < 256 ∧
    active.settling < 256 ∧ ((rebinding 0).ap 3).pendingList = some { address := 0x40030, count := 1, tag := 0x5A } ∧
    (State.reset.req 2).postedLimit < 256 ∧ (State.reset.req 2).mark = none ∧ (writing.req 2).mark = some (1, false) ∧
    4095 < 2 ^ 16 ∧ 2 ^ 32 - 1 < 2 ^ 32 ∧ (State.reset.req 2).refusedCount < 2 ^ 16 ∧
    writeOp2.fields.address = some 0x20000000 := by decide +kernel

theorem witness_ReadingCommandsReturnRecords :
    State.reset.resetLow = false ∧ (1 : Byte).getLsbD 0 = true ∧ (0 : Byte).getLsbD 0 = false := by decide

/-- The largest values that SET_GLOBAL takes, and a budget past them. -/
theorem witness_SetGlobalReplacesFourValues :
    State.reset.resetLow = false ∧ State.reset.quiescing = false ∧ 63 < (64 : Byte).toNat ∧
    ¬(63 < (63 : Byte).toNat ∨ (1 : Byte) = 0 ∨ (255 : Byte) = 0 ∨ 1 < (1 : Byte).toNat) := by decide

/-- The largest values that SET_REQUESTER takes, and a number past them. -/
theorem witness_SetRequesterReplacesSettings :
    State.reset.resetLow = false ∧ State.reset.quiescing = false ∧ 15 < (16 : Byte).toNat ∧
    ¬(15 < (15 : Byte).toNat ∨ (16 : Byte).toNat = 0 ∨ 16 < (16 : Byte).toNat ∨ (4 : Byte).toNat = 0 ∨
      4 < (4 : Byte).toNat ∨ 1 < (1 : Byte).toNat) ∧ (15 : ReqId).val = (15 : Byte).toNat ∧
    (let s : State := { State.reset with quiescing := true }; s.resetLow = false ∧ s.quiescing = true) := by decide

/-- Each clause of LOAD's checks has its frame and state. -/
theorem witness_LoadIsCheckedInOrder :
    State.reset.resetLow = false ∧ State.reset.quiescing = false ∧ load3.length = 20 ∧ (byteAt load3 0).toNat = 3 ∧
    15 < (byteAt (16 :: load3.tail) 0).toNat ∧ ((open3 active).ap 3).state ≠ .free ∧ (State.reset.ap 3).state = .free ∧
    (field load3 1 5 % 4096 = 0 ∧ field load3 6 3 = 16 ∧ field load3 1 5 + 4096 * field load3 6 3 ≤ 2 ^ 40 ∧
      field load3 9 5 % 16 = 0 ∧ field load3 14 2 = 5 ∧ field load3 9 5 + 16 * field load3 14 2 ≤ 2 ^ 40) ∧
    (∃ j, ((open3 active).ap j).state ≠ .free ∧ ((open3 active).ap j).windowBase.toNat < field load3 1 5 + 4096 * 16 ∧
      field load3 1 5 < ((open3 active).ap j).windowBase.toNat + ((open3 active).ap j).windowSize) ∧
    (∀ j, (State.reset.ap j).state = .free) ∧ State.reset.jobs.length < 4 ∧
    4 ≤ ({ State.reset with jobs := List.replicate 4 (job3 .load) } : State).jobs.length :=
  ⟨by decide +kernel, by decide, by decide +kernel, by decide +kernel, by decide +kernel, by decide +kernel,
    by decide +kernel, by decide +kernel, ⟨3, by decide +kernel⟩, by decide +kernel, by decide +kernel,
    by decide +kernel⟩

/-- The boundaries of LOAD's and REBIND's arguments: the whole space of 1,048,576 pages from 0 and a list of 4,096 entries
pass; one page or one entry more is bad. -/
theorem witness_ArgumentBoundaries :
    (let args : List Byte := [3] ++ leBytes 5 0 ++ leBytes 3 1048576 ++ leBytes 5 0x40000 ++ leBytes 2 4096 ++ [0x5A, 3, 0xFF, 0xFF]
     args.length = 20 ∧ field args 6 3 = 1048576 ∧ field args 14 2 = 4096 ∧ field args 1 5 + 4096 * field args 6 3 ≤ 2 ^ 40 ∧
      ((after (.load args) State.reset).response.map (·.answer)) = some .ok) ∧
    (let args : List Byte := [3] ++ leBytes 5 0 ++ leBytes 3 1048577 ++ leBytes 5 0x40000 ++ leBytes 2 5 ++ [0x5A, 3, 0xFF, 0xFF]
     args.length = 20 ∧ 1048576 < field args 6 3 ∧
      ((after (.load args) State.reset).response.map (·.answer)) = some .badArgument) ∧
    (let args : List Byte := [3] ++ leBytes 5 0 ++ leBytes 3 1 ++ leBytes 5 0x40000 ++ leBytes 2 4097 ++ [0x5A, 3, 0xFF, 0xFF]
     args.length = 20 ∧ 4096 < field args 14 2 ∧
      ((after (.load args) State.reset).response.map (·.answer)) = some .badArgument) ∧
    (let args : List Byte := [3] ++ leBytes 5 0x50000 ++ leBytes 2 4097 ++ [0x5B]
     args.length = 9 ∧ 4096 < field args 6 2 ∧
      ((after (.rebind args) (open3 active)).response.map (·.answer)) = some .badArgument) := by decide +kernel

theorem witness_RebindIsCheckedInOrder :
    let args : List Byte := [3] ++ leBytes 5 0x50000 ++ [0, 0x10, 0x5B]
    (open3 active).resetLow = false ∧ (open3 active).quiescing = false ∧ args.length = 9 ∧ (byteAt args 0).toNat = 3 ∧
    field args 1 5 % 16 = 0 ∧ field args 6 2 = 4096 ∧ field args 1 5 + 16 * field args 6 2 ≤ 2 ^ 40 ∧
    ((open3 active).ap 3).state = .active ∧ (State.reset.ap 3).state ≠ .active ∧ (open3 active).jobs.length < 4 ∧
    4 ≤ ({ open3 active with jobs := List.replicate 4 (job3 .load) } : State).jobs.length := by decide +kernel

theorem witness_RetireGoesByState :
    (∀ a ∈ [{ active with state := .draining }, active, { active with state := .faulted },
        { active with state := .faulted, inFlight := 1 }],
      (open3 a).resetLow = false ∧ (open3 a).quiescing = false ∧ (open3 a).jobs = [] ∧ (open3 a).missQueue = [] ∧
      ((open3 a).ap 3).state = a.state ∧ ((open3 a).ap 3).inFlight = a.inFlight) ∧
    (let s := validating { active with state := .loading } .load
     (∀ j ∈ s.jobs, j.aperture = 3) ∧ (s.ap 3).state = .loading ∧ s.reports.length < 15) ∧
    (∃ w ∈ (walking active).missQueue, w.walk.isSome = true ∧ w.aperture = 3) :=
  ⟨by decide +kernel, by decide +kernel, ⟨request3, by decide +kernel⟩⟩

theorem witness_RetireAbandonsARebind :
    (let s := validating { active with state := .rebinding .validating, inFlight := 1 } .rebind
     s.resetLow = false ∧ s.quiescing = false ∧ 0 < (s.ap 3).inFlight ∧ (∀ j ∈ s.jobs, j.aperture = 3) ∧
      (s.ap 3).state = .rebinding .validating ∧ s.reports.length < 16) ∧
    (let s := open3 { active with state := .rebinding .settling, inFlight := 1, settling := 1 }
     s.resetLow = false ∧ s.quiescing = false ∧ 0 < (s.ap 3).inFlight ∧ s.jobs = [] ∧
      (s.ap 3).state = .rebinding .settling) := by decide +kernel

theorem witness_SetAccessAndInvalidate :
    (open3 active).resetLow = false ∧ (open3 active).quiescing = false ∧ ((open3 active).ap 3).state = .active ∧
    ((open3 { active with state := .rebinding .settling }).ap 3).state = .rebinding .settling ∧
    (State.reset.ap 3).state ≠ .active ∧ (∀ p, (State.reset.ap 3).state ≠ .rebinding p) ∧
    16 ≤ (16 : Byte).toNat ∧ (254 : Byte).toNat ≤ 254 :=
  ⟨by decide +kernel, by decide +kernel, by decide +kernel, by decide +kernel, by decide +kernel,
    by intro p; cases p <;> decide +kernel, by decide, by decide⟩

theorem witness_PopReportRemovesTheHead :
    (∀ n ∈ [1, 15, 16], ∃ p rest,
      ({ State.reset with reports := List.replicate n { kind := .resetDone } } : State).reports = p :: rest ∧
        rest.length + 1 = n) ∧
    State.reset.reports = [] ∧ State.reset.resetLow = false ∧ State.reset.quiescing = false ∧
    (let s : State := { State.reset with quiescing := true }; s.quiescing = true) ∧
    (Instr.badFrame 0x20 [] 0).wf = true :=
  ⟨by
    intro n hn
    simp only [List.mem_cons, List.not_mem_nil, or_false] at hn
    rcases hn with rfl | rfl | rfl <;> exact ⟨_, _, rfl, rfl⟩, rfl, rfl, rfl, rfl, by decide +kernel⟩

theorem witness_ResetQuiescesOrCompletes :
    (writing.resetLow = false ∧ writing.quiescing = false ∧ writing.postQueue = [issuedEntry] ∧
      writing.missQueue = [] ∧ writing.unqueued = [] ∧ (∀ n, writing.slot n = none) ∧ writing.parked = [] ∧
      issuedEntry.state = .issued ∧ ∀ p ∈ issuedEntry.core.pieces, p.state = .issued) ∧
    (State.reset.postQueue = [] ∧ State.reset.missQueue = [] ∧ State.reset.unqueued = [] ∧
      ∀ t, State.reset.tag t = .free) := by decide +kernel

theorem witness_DrainingAndSettlingEnd :
    (let s := open3 { active with state := .draining }
     (s.ap 3).state = .draining ∧ (s.ap 3).inFlight = 0 ∧ s.missQueue = []) ∧
    (let s := open3 { active with state := .rebinding .settling }
     (s.ap 3).state = .rebinding .settling ∧ (s.ap 3).settling = 0) ∧
    (State.reset.ap 3).state ≠ .draining ∧ (State.reset.ap 3).state ≠ .rebinding .settling := by decide +kernel

/-- A state whose only entry is so. -/
def queuedWrite (e : PostEntry) : State :=
  updReq 2 (fun q => { q with taken := 1, queuedWrites := 1 }) { State.reset with postQueue := [e], nextAge := 1 }

/-- A READY entry with a piece of a kind. -/
def readyEntry (k : ExtentKind) : PostEntry :=
  { issuedEntry with state := .ready
                     core := { issuedEntry.core with pieces := [{ wholePiece 0x20000000 8 .pending with kind := k }] } }

/-- The entry behind it, with no piece ISSUED, and a DONE one before it. -/
def nextEntry (e : PostEntry) (f : Option Failure) : PostEntry :=
  { e with
    sequence := 2
    core := { e.core with
      failure := f, age := 1
      pieces := e.core.pieces.map fun p => if p.state = .issued then { p with state := .ended } else p } }
def twoQueued (e : PostEntry) : State :=
  { queuedWrite { issuedEntry with state := .done } with
    postQueue := [{ issuedEntry with state := .done }, e]
    requesters := (updReq 2 (fun q => { q with taken := 2, queuedWrites := 2 }) State.reset).requesters }

theorem witness_HeadsBecomeEligibleAndLeave :
    (∀ e ∈ [{ issuedEntry with state := .done }, readyEntry .zero, readyEntry .map],
      let s := queuedWrite e
      s.quiescing = false ∧ s.postQueue = [e] ∧ e.core.settlingMark = false ∧ e.core.progress = none ∧
      e.core.place = none ∧ (∀ n, s.slot n = none) ∧ s.missQueue = [] ∧ s.jobs = [] ∧ s.parked = [] ∧ s.tag 4 = .free) ∧
    (∀ p ∈ (readyEntry .zero).core.pieces, p.kind = .zero ∧ p.state = .pending) ∧
    (∀ e ∈ [nextEntry (readyEntry .zero) none, nextEntry { issuedEntry with state := .failed } (some recorded)],
      let s := twoQueued e
      s.quiescing = false ∧ s.postQueue = [{ issuedEntry with state := .done }, e] ∧ e.core.settlingMark = false ∧
      e.core.progress = none ∧ e.core.place = none ∧ e.core.requester = issuedEntry.core.requester ∧
      e.sequence ≠ issuedEntry.sequence ∧ (∀ n, s.slot n = none) ∧ s.missQueue = [] ∧ s.jobs = [] ∧ s.parked = [] ∧
      ∀ p ∈ e.core.pieces, p.state ≠ .issued) ∧
    (head 2 (queuedWrite issuedEntry)).map (·.state) = some .issued ∧ head 2 State.reset = none := by decide +kernel

/-- A leaving brings those behind it: a write of ZERO pieces, or a FAILED one, lost. -/
theorem test_cascade :
    ((after (.entryLeave 2) (twoQueued (nextEntry (readyEntry .zero) none))).req 2).completed = 2 ∧
    (after (.entryLeave 2) (twoQueued (nextEntry { issuedEntry with state := .failed } (some recorded)))).reports.map
      (fun p => (p.kind, p.sequence)) = [(.writeLost, some 2)] := by decide +kernel

/-- A slot whose fence stands at a sequence number, with a piece of a kind. -/
def fenced (k : ExtentKind) (st : SlotState) (fence : Seq) : State :=
  slotted { readSlot st .pending with
    fence := fence, fenceMet := false
    core := { (readSlot st .pending).core with pieces := [{ wholePiece 0x30000040 4 .pending with kind := k }] } }

theorem witness_AMetFenceStartsTheRead :
    (∀ k ∈ [ExtentKind.zero, .map],
      let s := fenced k .ordered 0
      (s.slot 7).elim false (fun c => !c.fenceMet && c.state == .ordered && (s.req c.core.requester).completed == c.fence) =
        true ∧
      s.quiescing = false ∧ s.postQueue = [] ∧ (∀ m, m ≠ 7 → s.slot m = none) ∧ s.missQueue = [] ∧ s.jobs = [] ∧
      s.parked = [] ∧ s.tag 4 = .free) ∧
    ((fenced .map .ordered 1).slot 7).elim false (fun c => ((fenced .map .ordered 1).req 5).completed != c.fence) = true ∧
    (reading.slot 7).elim false (·.fenceMet) = true := by decide +kernel

theorem witness_TrafficLeavesTheSettings :
    State.reset.resetLow = false ∧ State.reset.quiescing = false ∧
    (∃ t lanes code, Instr.responseBusy 4 ∈ responses t lanes code) := ⟨by decide, by decide, 4, 0, 2, by simp [responses]⟩

/-! The reset state meets each invariant that a step keeps, and it steps. -/

theorem reset_steps : step State.reset = .next { State.reset with tickCounter := 1 } := by rfl
theorem witness_StepKeepsCacheRanks : ranksArePermutation State.reset := by unfold ranksArePermutation; decide +kernel
theorem witness_StepKeepsTheApertureLaws : windowsDisjoint State.reset ∧ pendingListsPlaced State.reset :=
  ⟨disjoint_of_one (by decide +kernel), by unfold pendingListsPlaced; decide +kernel⟩
theorem witness_StepKeepsCapacitiesAndRanges : queuesBounded State.reset ∧ settingsInRange State.reset := by
  unfold queuesBounded settingsInRange; decide +kernel
theorem witness_StepKeepsOperationsInClass : opsInClass State.reset ∧ opsInClass writing := by
  have free : ∀ t : TagId, State.reset.tag t = .free := by decide +kernel
  have rest : ∀ t : TagId, t ≠ 4 → writing.tag t = .free := by decide +kernel
  have four : writing.tag 4 = .outstanding writeOp2 := by decide +kernel
  refine ⟨⟨fun t op h => ?_, fun p h => by cases h⟩, ⟨fun t op h => ?_, fun p h => by cases h⟩⟩
  · rw [free t] at h; cases h
  · by_cases e : t = 4
    · rw [e, four] at h
      cases h
      rw [e]
      refine ⟨by decide, fun o ho => ?_⟩
      cases ho
      rfl
    · rw [rest t e] at h; cases h
theorem witness_StepKeepsCountsTrue :
    (sequencesFollow State.reset ∧ slotsCounted State.reset ∧ inFlightCounted State.reset) ∧
    (sequencesFollow writing ∧ slotsCounted writing ∧ inFlightCounted writing) := by
  refine ⟨⟨?_, counted_one (by decide +kernel) (by decide +kernel), ?_⟩,
    ⟨?_, counted_one (by decide +kernel) (by decide +kernel), ?_⟩⟩
  · unfold sequencesFollow; decide +kernel
  · unfold inFlightCounted; decide +kernel
  · unfold sequencesFollow; decide +kernel
  · unfold inFlightCounted; decide +kernel

/-! ## The steps inside events -/

/-- A slot that a fault withdraws keeps its translated pieces, ENDED (R114), and a walk then running is marked (R21). -/
theorem test_withdrawn_slot_keeps_its_pieces :
    ((after (.responseOk 1 badLine) stranded).slot 7).map (fun c => (c.state, c.core.pieces.map (·.state))) =
      some (.failed, [.ended]) := by decide +kernel
/-- A withdrawn write keeps its translated pieces, ENDED, without their targets (R22, R93). -/
theorem test_withdrawn_write_keeps_its_pieces :
    (after (.responseOk 1 badLine) behindIssued).postQueue.map (fun e => (e.state, e.core.pieces.map fun p => (p.state, p.target))) =
      [(.issued, [(.issued, some 0x20000000)]), (.failed, [(.ended, none)])] := by decide +kernel
theorem test_running_walk_is_dropped :
    (after (.responseOk 1 badLine) { walking active with
      missQueue := [request3, { request3 with target := 0, walk := some { walk3 with engine := 0 } }] }).missQueue.map
      (·.dropped) = [true] ∧
    ((after (.responseOk 1 goodLine) (droppedWalk .draining)).ap 3).resume = none := by decide +kernel

theorem test_fence_met : ((after (.fenceMet 7) (fenced .zero .ordered 0)).slot 7).map (·.state) = some .ready := by
  decide +kernel
theorem test_entry_eligible : ((after (.entryEligible 2) (queuedWrite (readyEntry .zero))).req 2).completed = 1 := by
  decide +kernel
theorem test_arbiter_grant : (after .arbiterGrant (contended .read)).out.mem.map (fun m => (m.tag, m.kind)) = [(15, .mwrite)] := by
  decide +kernel
theorem test_job_start :
    (after .jobStart (jobbed 5)).out.mem.map (fun m => (m.tag, m.address, m.length)) =
      [(2, 0x40030, 16), (3, 0x40040, 64)] := by decide +kernel
theorem test_validation_read :
    (after .validationReadIssue running2).out.mem.map (fun m => (m.tag, m.address, m.length)) = [(2, 0x40080, 16)] := by
  decide +kernel
theorem test_reoffer : (after .unqueuedReoffer unoffered).missQueue.map (·.target) = [0x2FFF] := by decide +kernel
theorem test_step_takes_the_front :
    step { State.reset with pending := [.ident [], .sync 1] } =
      .next { after (.ident []) State.reset with pending := [.sync 1] } := by rfl

end Sys2Proof.Tests
end

section
/-! SUPPORT and CLAIM. SET_REQUESTER (R129): the checks that the management commands share (R166 to R168), the checks of
the command's own arguments, and the change of one requester record. -/

namespace Sys2Proof.Machine

open Sys2Proof.Claims

/-! ### A complete frame taken in a fresh event -/

/-- An answer given in the event of a frame is the frame answered: nothing else moves (R165, R167). -/
theorem answer_driveFrame_beginEvent (code : Byte) (args : List Byte) (a : Answer) (results : List Byte) (s : State) :
    answer code a results (driveFrame (3 + args.length) (beginEvent s)) = framed code args a results s := rfl

/-- The quiescing gate (R168). -/
theorem takeCommand_of_quiescing {n : Nat} {args : List Byte} {s : State} (code : Byte) (body : State → State)
    (up : s.resetLow = false) (size : args.length = n) (quiescing : s.quiescing = true) :
    takeCommand code n true args body (beginEvent s) = framed code args .busy [] s := by
  rw [← answer_driveFrame_beginEvent]
  simp [takeCommand, driveFrame, up, size, quiescing]

/-- Outside quiescing a frame of the right length reaches the command itself, whether the gate holds it or not. -/
theorem takeCommand_of_not_quiescing {n : Nat} {args : List Byte} {s : State} (code : Byte) (gated : Bool)
    (body : State → State) (up : s.resetLow = false) (size : args.length = n) (running : s.quiescing = false) :
    takeCommand code n gated args body (beginEvent s) = body (driveFrame (3 + args.length) (beginEvent s)) := by
  simp [takeCommand, driveFrame, up, size, running]

/-! ### The number that a command names -/

theorem withId_of_gt {b : Byte} (code : Byte) (f : Fin 16 → State → State) (s : State) (above : 15 < b.toNat) :
    withId code b f s = answer code .badArgument [] s := by
  have absent : smallId b = none := dif_neg (by omega)
  simp only [withId, absent]

theorem withId_of_val_eq {b : Byte} {k : Fin 16} (code : Byte) (f : Fin 16 → State → State) (s : State)
    (named : k.val = b.toNat) : withId code b f s = f k s := by
  have present : smallId b = some k := by
    simp only [smallId, ← named, k.isLt, dite_true, Fin.eta]
  simp only [withId, present]

/-! ### The arguments of SET_REQUESTER -/

theorem modeOfCode_of_gt {m : Byte} (above : 1 < m.toNat) : modeOfCode m = none := by
  have h0 : m ≠ 0 := by bv_omega
  have h1 : m ≠ 1 := by bv_omega
  simp only [modeOfCode, h0, h1, if_false]

theorem modeOfCode_of_le {m : Byte} (assigned : m.toNat ≤ 1) :
    modeOfCode m = some (if m = 0 then .refuse else .ones) := by
  by_cases h0 : m = 0
  · simp only [modeOfCode, h0, if_true]
  · have h1 : m = 1 := by bv_omega
    simp only [modeOfCode, h0, if_pos h1, if_false]

theorem limitsInRange_iff (args : List Byte) :
    limitsInRange args = true ↔ (1 ≤ (byteAt args 2).toNat ∧ (byteAt args 2).toNat ≤ 16) ∧
      1 ≤ (byteAt args 3).toNat ∧ (byteAt args 3).toNat ≤ 4 := by
  simp only [limitsInRange, Bool.and_eq_true, decide_eq_true_eq, and_assoc]

/-! ### SET_REQUESTER by its checks -/

section
variable {args : List Byte} {s : State}

theorem setRequesterFrame_of_quiescing (up : s.resetLow = false) (size : args.length = 5)
    (quiescing : s.quiescing = true) :
    setRequesterFrame args (beginEvent s) = framed 0x04 args .busy [] s :=
  takeCommand_of_quiescing _ _ up size quiescing

/-- A number above 15 names no requester (R129). -/
theorem setRequesterFrame_of_number_gt (up : s.resetLow = false) (size : args.length = 5)
    (running : s.quiescing = false) (above : 15 < (byteAt args 0).toNat) :
    setRequesterFrame args (beginEvent s) = framed 0x04 args .badArgument [] s := by
  rw [setRequesterFrame, takeCommand_of_not_quiescing _ _ _ up size running, withId_of_gt _ _ _ above,
    answer_driveFrame_beginEvent]

/-- A limit out of its range, or a mode code that names no mode, of a requester that is named (R129). -/
theorem setRequesterFrame_of_bad_setting {r : ReqId} (up : s.resetLow = false) (size : args.length = 5)
    (running : s.quiescing = false) (named : r.val = (byteAt args 0).toNat)
    (bad : ¬limitsInRange args ∨ 1 < (byteAt args 4).toNat) :
    setRequesterFrame args (beginEvent s) = framed 0x04 args .badArgument [] s := by
  rw [setRequesterFrame, takeCommand_of_not_quiescing _ _ _ up size running, withId_of_val_eq _ _ _ named,
    ← answer_driveFrame_beginEvent]
  by_cases assigned : (byteAt args 4).toNat ≤ 1
  · have limits : ¬limitsInRange args := bad.resolve_right (Nat.not_lt.mpr assigned)
    simp only [modeOfCode_of_le assigned, if_neg limits]
  · simp only [modeOfCode_of_gt (Nat.lt_of_not_le assigned)]

/-- With every check passed the settings of the one record are replaced in the event of the frame (R129). -/
theorem setRequesterFrame_of_good {r : ReqId} (up : s.resetLow = false) (size : args.length = 5)
    (running : s.quiescing = false) (named : r.val = (byteAt args 0).toNat) (limits : limitsInRange args)
    (assigned : (byteAt args 4).toNat ≤ 1) :
    setRequesterFrame args (beginEvent s) =
      setReq r ((s.req r).setTo args (if byteAt args 4 = 0 then .refuse else .ones)) (framed 0x04 args .ok [] s) := by
  rw [setRequesterFrame, takeCommand_of_not_quiescing _ _ _ up size running, withId_of_val_eq _ _ _ named]
  simp only [modeOfCode_of_le assigned, if_pos limits]
  rfl

end

theorem exec_setRequester (args : List Byte) (s : State) :
    exec (.setRequester args) s = .next (setRequesterFrame args (beginEvent s)) := rfl

/-- Settles O43, along the order of R129's checks: the quiescing gate, the number, the limits and the mode code. -/
theorem setRequesterReplacesSettings : Obligations.SetRequesterReplacesSettings := by
  intro n f p l m s up
  have limits_iff : limitsInRange [n, f, p, l, m] ↔
      (1 ≤ p.toNat ∧ p.toNat ≤ 16) ∧ 1 ≤ l.toNat ∧ l.toNat ≤ 4 := limitsInRange_iff _
  refine ⟨fun quiescing => ?busy, fun running bad => ?badArgument, fun running good r named => ?ok⟩
  case busy => rw [exec_setRequester, setRequesterFrame_of_quiescing up rfl quiescing]
  case badArgument =>
    rw [exec_setRequester]
    by_cases above : 15 < n.toNat
    · rw [setRequesterFrame_of_number_gt (args := [n, f, p, l, m]) up rfl running above]
    · have bad_setting : ¬limitsInRange [n, f, p, l, m] ∨ 1 < m.toNat := by rw [limits_iff]; omega
      rw [setRequesterFrame_of_bad_setting (r := ⟨n.toNat, by omega⟩) up rfl running rfl bad_setting]
  case ok =>
    have limits : limitsInRange [n, f, p, l, m] := limits_iff.mpr (by omega)
    have assigned : m.toNat ≤ 1 := by omega
    rw [exec_setRequester, setRequesterFrame_of_good up rfl running named limits assigned]
    rfl

end Sys2Proof.Machine
end

section
/-! SUPPORT and CLAIM. POP_REPORT (R160): frames that are not carried out (R166), the report queue with room and without
(R158, R159), and the pop of its head, alone and beside a post. -/

namespace Sys2Proof.Machine

open Sys2Proof.Claims

/-! ### Frames that are not carried out -/

/-- A frame whose argument length is not its command's (R166 step 3), quiescing or not. -/
theorem takeCommand_of_length_ne {n : Nat} {args : List Byte} {s : State} (code : Byte) (gated : Bool)
    (body : State → State) (up : s.resetLow = false) (size : args.length ≠ n) :
    takeCommand code n gated args body (beginEvent s) = framed code args .badFrame [] s := by
  rw [← answer_driveFrame_beginEvent]
  simp [takeCommand, up, size]

theorem rejectFrame_beginEvent {s : State} (code : Byte) (args : List Byte) (a : Answer) (up : s.resetLow = false) :
    rejectFrame (3 + args.length) code a (beginEvent s) = framed code args a [] s := by
  rw [← answer_driveFrame_beginEvent]
  simp [rejectFrame, up]

/-- A complete frame that is no FETCH and whose CRC byte is wrong (R166 step 1). -/
theorem exec_badFrame {code crc : Byte} {args : List Byte} {s : State} (up : s.resetLow = false)
    (formed : (Instr.badFrame code args crc).wf = true) :
    exec (.badFrame code args crc) s = .next (framed code args .badFrame [] s) := by
  simp only [Instr.wf, Bool.and_eq_true, Bool.not_eq_true', beq_eq_false_iff_ne] at formed
  obtain ⟨⟨-, noFetch⟩, wrongCrc⟩ := formed
  calc exec (.badFrame code args crc) s
      = .next (completeFrame code args crc (beginEvent s)) := congrArg _ (if_neg noFetch)
    _ = .next (rejectFrame (3 + args.length) code .badFrame (beginEvent s)) := congrArg _ (if_neg wrongCrc)
    _ = .next (framed code args .badFrame [] s) := congrArg _ (rejectFrame_beginEvent _ _ _ up)

/-! ### The report queue -/

theorem post_of_room {s : State} (q : Report) (room : s.reports.length < 16) :
    post q s = { s with reports := s.reports ++ [q] } := if_pos room

theorem post_of_full {s : State} (q : Report) (full : 16 ≤ s.reports.length) :
    post q s = { s with dropped := min 255 (s.dropped + 1) } := if_neg (Nat.not_lt.mpr full)

theorem post_of_nil {s : State} (q : Report) (none_held : s.reports = []) :
    post q s = { s with reports := [q] } := by
  rw [post_of_room q (by simp [none_held]), none_held, List.nil_append]

/-! ### POP_REPORT by the report queue -/

/-- The event in which POP_REPORT hands the record `p` over and leaves `rest` queued. -/
def popped (p : Report) (rest : List Report) (s : State) : State :=
  { framed 0x20 [] .ok p.encode s with reports := rest }

theorem exec_popReport (args : List Byte) (s : State) :
    exec (.popReport args) s = .next (popReportFrame args (beginEvent s)) := rfl

section
variable {p : Report} {rest : List Report} {s : State}

theorem exec_popReport_of_cons (up : s.resetLow = false) (running : s.quiescing = false)
    (held : s.reports = p :: rest) : exec (.popReport []) s = .next (popped p rest s) := by
  rw [exec_popReport, popReportFrame, takeCommand_of_not_quiescing (n := 0) _ _ _ up rfl running]
  simp only [driveFrame_reports, beginEvent_reports, held]
  rfl

theorem exec_popReport_of_nil (up : s.resetLow = false) (running : s.quiescing = false) (none_held : s.reports = []) :
    exec (.popReport []) s = .next (framed 0x20 [] .empty [] s) := by
  rw [exec_popReport, popReportFrame, takeCommand_of_not_quiescing (n := 0) _ _ _ up rfl running]
  simp only [driveFrame_reports, beginEvent_reports, none_held]
  rfl

/-! ### A pop and a post -/

/-- A pop leaves room, so the record posted after it joins the tail. -/
theorem post_popped (q p : Report) (s : State) (room : rest.length < 16) :
    post q (popped p rest s) = popped p (rest ++ [q]) s := post_of_room q room

/-- A record posted with room left is in the queue that the pop after it finds. -/
theorem exec_popReport_post_of_room (q : Report) (up : s.resetLow = false) (running : s.quiescing = false)
    (room : s.reports.length < 16) (held : s.reports ++ [q] = p :: rest) :
    exec (.popReport []) (post q s) = .next (popped p rest s) := by
  rw [post_of_room q room]
  exact exec_popReport_of_cons (s := { s with reports := s.reports ++ [q] }) up running held

/-- A record posted to a full queue is lost, and the pop after it finds the queue as it was. -/
theorem exec_popReport_post_of_full (q : Report) (up : s.resetLow = false) (running : s.quiescing = false)
    (held : s.reports = p :: rest) (full : rest.length = 15) :
    exec (.popReport []) (post q s) = .next { popped p rest s with dropped := min 255 (s.dropped + 1) } := by
  have sixteen : 16 ≤ s.reports.length := by simp [held, full]
  rw [post_of_full q sixteen]
  exact exec_popReport_of_cons (s := { s with dropped := min 255 (s.dropped + 1) }) up running held

end

/-- Settles O49, by what the report queue holds (no record, some, sixteen), then by R166's checks of the frame. -/
theorem popReportRemovesTheHead : Obligations.PopReportRemovesTheHead := by
  intro s up
  refine ⟨fun running => ⟨fun p rest => exec_popReport_of_cons up running, exec_popReport_of_nil up running,
    fun q => ⟨fun p rest held full => ?full, fun none_held => ?empty, fun p rest held room => ?between⟩⟩,
    fun quiescing => ?busy, fun args given => ?arguments, fun args crc formed => exec_badFrame up formed⟩
  case full =>
    exact ⟨exec_popReport_post_of_full q up running held full, post_popped q p s (by omega)⟩
  case empty =>
    have room : s.reports.length < 16 := by simp [none_held]
    exact ⟨exec_popReport_post_of_room q up running room (by simp [none_held]), post_of_nil q none_held⟩
  case between =>
    have unfilled : s.reports.length < 16 := by rw [held, List.length_cons]; omega
    exact ⟨exec_popReport_post_of_room q up running unfilled (by simp [held]), post_popped q p s (by omega)⟩
  case busy => rw [exec_popReport, popReportFrame, takeCommand_of_quiescing (n := 0) _ _ up rfl quiescing]
  case arguments =>
    have size : args.length ≠ 0 := mt List.length_eq_zero_iff.mp given
    rw [exec_popReport, popReportFrame, takeCommand_of_length_ne _ _ _ up size]

end Sys2Proof.Machine
end

section
/-! SUPPORT and CLAIM. Invariants that every step keeps. A law kept by every single change is kept by every step
(`step_keeps`); each invariant is then one case analysis over `Change`. Here: the cache ranks (R49), the aperture laws
(R1, R2), the capacities and ranges, and the classes of operations (R139, R141). -/

namespace Sys2Proof.Machine

/-! ### From single changes to steps -/

/-- A law that every change keeps is kept by every chain of changes. -/
theorem Changes.keep {P : State → Prop} {s t : State} (keeps : ∀ u v, Change .command u v → P u → P v)
    (h : Changes .command s t) (hs : P s) : P t := by
  induction h with
  | refl => exact hs
  | tail _ change ih => exact keeps _ _ change ih

/-- A law that does not speak of the waiting commands and that every change keeps is kept by every step. -/
theorem step_keeps {P : State → Prop} (queue : ∀ u q, P u → P { u with pending := q })
    (keeps : ∀ u v, Change .command u v → P u → P v) {s t : State} (hs : P s) (h : step s = .next t) : P t :=
  (step_changes s t h).keep keeps (queue _ _ hs)

/-! ### What a post leaves -/

section
variable (p : Report) (s : State)

@[simp] theorem post_pending : (post p s).pending = s.pending := by unfold post; split <;> rfl
@[simp] theorem post_resetLow : (post p s).resetLow = s.resetLow := by unfold post; split <;> rfl
@[simp] theorem post_tickCounter : (post p s).tickCounter = s.tickCounter := by unfold post; split <;> rfl
@[simp] theorem post_checkpoints : (post p s).checkpoints = s.checkpoints := by unfold post; split <;> rfl
@[simp] theorem post_jobs : (post p s).jobs = s.jobs := by unfold post; split <;> rfl
@[simp] theorem post_validation : (post p s).validation = s.validation := by unfold post; split <;> rfl
@[simp] theorem post_cache : (post p s).cache = s.cache := by unfold post; split <;> rfl
@[simp] theorem post_missQueue : (post p s).missQueue = s.missQueue := by unfold post; split <;> rfl
@[simp] theorem post_unqueued : (post p s).unqueued = s.unqueued := by unfold post; split <;> rfl
@[simp] theorem post_postQueue : (post p s).postQueue = s.postQueue := by unfold post; split <;> rfl
@[simp] theorem post_slots : (post p s).slots = s.slots := by unfold post; split <;> rfl
@[simp] theorem post_requesters : (post p s).requesters = s.requesters := by unfold post; split <;> rfl
@[simp] theorem post_tags : (post p s).tags = s.tags := by unfold post; split <;> rfl
@[simp] theorem post_parked : (post p s).parked = s.parked := by unfold post; split <;> rfl
@[simp] theorem post_lastGrant : (post p s).lastGrant = s.lastGrant := by unfold post; split <;> rfl
@[simp] theorem post_settings : (post p s).settings = s.settings := by unfold post; split <;> rfl
@[simp] theorem post_quiescing : (post p s).quiescing = s.quiescing := by unfold post; split <;> rfl
@[simp] theorem post_response : (post p s).response = s.response := by unfold post; split <;> rfl
@[simp] theorem post_out : (post p s).out = s.out := by unfold post; split <;> rfl
@[simp] theorem post_nextAge : (post p s).nextAge = s.nextAge := by unfold post; split <;> rfl
@[simp] theorem post_choices : (post p s).choices = s.choices := by unfold post; split <;> rfl
@[simp] theorem post_ap (k : ApId) : (post p s).ap k = s.ap k := ap_congr (post_apertures p s) k
@[simp] theorem post_places (k : ApId) : (post p s).places k = s.places k := places_congr (post_checkpoints p s) k
@[simp] theorem post_req (r : ReqId) : (post p s).req r = s.req r := req_congr (post_requesters p s) r
@[simp] theorem post_slot (n : SlotId) : (post p s).slot n = s.slot n := slot_congr (post_slots p s) n
@[simp] theorem post_tag (t : TagId) : (post p s).tag t = s.tag t := tag_congr (post_tags p s) t
@[simp] theorem post_cached (i : Fin 32) : (post p s).cached i = s.cached i := cached_congr (post_cache p s) i

end

/-! ### What the counts of an aperture leave -/

section
variable (p : Option Place) (s : State)

@[simp] theorem addFault_pending : (addFault p s).pending = s.pending := by cases p <;> rfl
@[simp] theorem addFault_resetLow : (addFault p s).resetLow = s.resetLow := by cases p <;> rfl
@[simp] theorem addFault_tickCounter : (addFault p s).tickCounter = s.tickCounter := by cases p <;> rfl
@[simp] theorem addFault_checkpoints : (addFault p s).checkpoints = s.checkpoints := by cases p <;> rfl
@[simp] theorem addFault_jobs : (addFault p s).jobs = s.jobs := by cases p <;> rfl
@[simp] theorem addFault_validation : (addFault p s).validation = s.validation := by cases p <;> rfl
@[simp] theorem addFault_cache : (addFault p s).cache = s.cache := by cases p <;> rfl
@[simp] theorem addFault_missQueue : (addFault p s).missQueue = s.missQueue := by cases p <;> rfl
@[simp] theorem addFault_unqueued : (addFault p s).unqueued = s.unqueued := by cases p <;> rfl
@[simp] theorem addFault_postQueue : (addFault p s).postQueue = s.postQueue := by cases p <;> rfl
@[simp] theorem addFault_slots : (addFault p s).slots = s.slots := by cases p <;> rfl
@[simp] theorem addFault_requesters : (addFault p s).requesters = s.requesters := by cases p <;> rfl
@[simp] theorem addFault_tags : (addFault p s).tags = s.tags := by cases p <;> rfl
@[simp] theorem addFault_parked : (addFault p s).parked = s.parked := by cases p <;> rfl
@[simp] theorem addFault_lastGrant : (addFault p s).lastGrant = s.lastGrant := by cases p <;> rfl
@[simp] theorem addFault_settings : (addFault p s).settings = s.settings := by cases p <;> rfl
@[simp] theorem addFault_reports : (addFault p s).reports = s.reports := by cases p <;> rfl
@[simp] theorem addFault_dropped : (addFault p s).dropped = s.dropped := by cases p <;> rfl
@[simp] theorem addFault_quiescing : (addFault p s).quiescing = s.quiescing := by cases p <;> rfl
@[simp] theorem addFault_response : (addFault p s).response = s.response := by cases p <;> rfl
@[simp] theorem addFault_out : (addFault p s).out = s.out := by cases p <;> rfl
@[simp] theorem addFault_nextAge : (addFault p s).nextAge = s.nextAge := by cases p <;> rfl
@[simp] theorem addFault_choices : (addFault p s).choices = s.choices := by cases p <;> rfl

@[simp] theorem raiseInFlight_pending : (raiseInFlight p s).pending = s.pending := by cases p <;> rfl
@[simp] theorem raiseInFlight_resetLow : (raiseInFlight p s).resetLow = s.resetLow := by cases p <;> rfl
@[simp] theorem raiseInFlight_tickCounter : (raiseInFlight p s).tickCounter = s.tickCounter := by cases p <;> rfl
@[simp] theorem raiseInFlight_checkpoints : (raiseInFlight p s).checkpoints = s.checkpoints := by cases p <;> rfl
@[simp] theorem raiseInFlight_jobs : (raiseInFlight p s).jobs = s.jobs := by cases p <;> rfl
@[simp] theorem raiseInFlight_validation : (raiseInFlight p s).validation = s.validation := by cases p <;> rfl
@[simp] theorem raiseInFlight_cache : (raiseInFlight p s).cache = s.cache := by cases p <;> rfl
@[simp] theorem raiseInFlight_missQueue : (raiseInFlight p s).missQueue = s.missQueue := by cases p <;> rfl
@[simp] theorem raiseInFlight_unqueued : (raiseInFlight p s).unqueued = s.unqueued := by cases p <;> rfl
@[simp] theorem raiseInFlight_postQueue : (raiseInFlight p s).postQueue = s.postQueue := by cases p <;> rfl
@[simp] theorem raiseInFlight_slots : (raiseInFlight p s).slots = s.slots := by cases p <;> rfl
@[simp] theorem raiseInFlight_requesters : (raiseInFlight p s).requesters = s.requesters := by cases p <;> rfl
@[simp] theorem raiseInFlight_tags : (raiseInFlight p s).tags = s.tags := by cases p <;> rfl
@[simp] theorem raiseInFlight_parked : (raiseInFlight p s).parked = s.parked := by cases p <;> rfl
@[simp] theorem raiseInFlight_lastGrant : (raiseInFlight p s).lastGrant = s.lastGrant := by cases p <;> rfl
@[simp] theorem raiseInFlight_settings : (raiseInFlight p s).settings = s.settings := by cases p <;> rfl
@[simp] theorem raiseInFlight_reports : (raiseInFlight p s).reports = s.reports := by cases p <;> rfl
@[simp] theorem raiseInFlight_dropped : (raiseInFlight p s).dropped = s.dropped := by cases p <;> rfl
@[simp] theorem raiseInFlight_quiescing : (raiseInFlight p s).quiescing = s.quiescing := by cases p <;> rfl
@[simp] theorem raiseInFlight_response : (raiseInFlight p s).response = s.response := by cases p <;> rfl
@[simp] theorem raiseInFlight_out : (raiseInFlight p s).out = s.out := by cases p <;> rfl
@[simp] theorem raiseInFlight_nextAge : (raiseInFlight p s).nextAge = s.nextAge := by cases p <;> rfl
@[simp] theorem raiseInFlight_choices : (raiseInFlight p s).choices = s.choices := by cases p <;> rfl

@[simp] theorem lowerInFlight_pending : (lowerInFlight p s).pending = s.pending := by cases p <;> rfl
@[simp] theorem lowerInFlight_resetLow : (lowerInFlight p s).resetLow = s.resetLow := by cases p <;> rfl
@[simp] theorem lowerInFlight_tickCounter : (lowerInFlight p s).tickCounter = s.tickCounter := by cases p <;> rfl
@[simp] theorem lowerInFlight_checkpoints : (lowerInFlight p s).checkpoints = s.checkpoints := by cases p <;> rfl
@[simp] theorem lowerInFlight_jobs : (lowerInFlight p s).jobs = s.jobs := by cases p <;> rfl
@[simp] theorem lowerInFlight_validation : (lowerInFlight p s).validation = s.validation := by cases p <;> rfl
@[simp] theorem lowerInFlight_cache : (lowerInFlight p s).cache = s.cache := by cases p <;> rfl
@[simp] theorem lowerInFlight_missQueue : (lowerInFlight p s).missQueue = s.missQueue := by cases p <;> rfl
@[simp] theorem lowerInFlight_unqueued : (lowerInFlight p s).unqueued = s.unqueued := by cases p <;> rfl
@[simp] theorem lowerInFlight_postQueue : (lowerInFlight p s).postQueue = s.postQueue := by cases p <;> rfl
@[simp] theorem lowerInFlight_slots : (lowerInFlight p s).slots = s.slots := by cases p <;> rfl
@[simp] theorem lowerInFlight_requesters : (lowerInFlight p s).requesters = s.requesters := by cases p <;> rfl
@[simp] theorem lowerInFlight_tags : (lowerInFlight p s).tags = s.tags := by cases p <;> rfl
@[simp] theorem lowerInFlight_parked : (lowerInFlight p s).parked = s.parked := by cases p <;> rfl
@[simp] theorem lowerInFlight_lastGrant : (lowerInFlight p s).lastGrant = s.lastGrant := by cases p <;> rfl
@[simp] theorem lowerInFlight_settings : (lowerInFlight p s).settings = s.settings := by cases p <;> rfl
@[simp] theorem lowerInFlight_reports : (lowerInFlight p s).reports = s.reports := by cases p <;> rfl
@[simp] theorem lowerInFlight_dropped : (lowerInFlight p s).dropped = s.dropped := by cases p <;> rfl
@[simp] theorem lowerInFlight_quiescing : (lowerInFlight p s).quiescing = s.quiescing := by cases p <;> rfl
@[simp] theorem lowerInFlight_response : (lowerInFlight p s).response = s.response := by cases p <;> rfl
@[simp] theorem lowerInFlight_out : (lowerInFlight p s).out = s.out := by cases p <;> rfl
@[simp] theorem lowerInFlight_nextAge : (lowerInFlight p s).nextAge = s.nextAge := by cases p <;> rfl
@[simp] theorem lowerInFlight_choices : (lowerInFlight p s).choices = s.choices := by cases p <;> rfl

end

/-! ### The reset state by its accessors -/

theorem reset_ap (k : ApId) : State.reset.ap k = {} := by simp [State.reset, State.ap]
theorem reset_req (r : ReqId) : State.reset.req r = {} := by simp [State.reset, State.req]
theorem reset_slot (n : SlotId) : State.reset.slot n = none := by simp [State.reset, State.slot]
theorem reset_tag (t : TagId) : State.reset.tag t = .free := by simp [State.reset, State.tag]
theorem reset_cached (i : Fin 32) : State.reset.cached i = { rank := i.val } := by simp [State.reset, State.cached]

/-- The soft reset takes the reset values of every record but the report queue (R174). -/
theorem softReset_ap (s : State) (k : ApId) : (softReset s).ap k = {} := by
  rw [softReset, post_ap]; exact reset_ap k
theorem softReset_req (s : State) (r : ReqId) : (softReset s).req r = {} := by
  rw [softReset, post_req]; exact reset_req r
theorem softReset_slot (s : State) (n : SlotId) : (softReset s).slot n = none := by
  rw [softReset, post_slot]; exact reset_slot n
theorem softReset_tag (s : State) (t : TagId) : (softReset s).tag t = .free := by
  rw [softReset, post_tag]; exact reset_tag t
theorem softReset_cached (s : State) (i : Fin 32) : (softReset s).cached i = { rank := i.val } := by
  rw [softReset, post_cached]; exact reset_cached i

/-! ### The ranks of the extent cache (R49) -/

/-- States whose cache entries have the same ranks meet the law together. -/
theorem ranksArePermutation_congr {s t : State} (same : ∀ i, (t.cached i).rank = (s.cached i).rank)
    (h : ranksArePermutation s) : ranksArePermutation t := by
  simpa only [ranksArePermutation, same] using h

theorem ranksArePermutation_of_rank_val {s : State} (h : ∀ i : Fin 32, (s.cached i).rank = i.val) :
    ranksArePermutation s :=
  ⟨fun i => h i ▸ i.isLt, fun i j ne e => ne (Fin.ext (by rw [← h i, e, h j]))⟩

/-- The entry touched takes rank 0, and those below its former rank move down into the gap it leaves. -/
theorem ranksArePermutation_touch (i : Fin 32) {s : State} (h : ranksArePermutation s) :
    ranksArePermutation (touch i s) := by
  obtain ⟨bound, distinct⟩ := h
  have rank (j : Fin 32) : ((touch i s).cached j).rank =
      if j = i then 0
      else if (s.cached j).rank < (s.cached i).rank then (s.cached j).rank + 1 else (s.cached j).rank := by
    rw [touch_cached]; split_ifs <;> rfl
  refine ⟨fun j => ?_, fun j k ne => ?_⟩
  · have := bound i; have := bound j
    rw [rank]; split_ifs <;> omega
  · have := distinct j k ne
    rw [rank, rank]
    by_cases hj : j = i
    · have := distinct k i (hj ▸ ne.symm)
      rw [if_pos hj, if_neg (hj ▸ ne.symm)]; split_ifs <;> omega
    · by_cases hk : k = i
      · have := distinct j i hj
        rw [if_neg hj, if_pos hk]; split_ifs <;> omega
      · have := distinct j i hj; have := distinct k i hk
        rw [if_neg hj, if_neg hk]; split_ifs <;> omega

theorem ranksArePermutation_setCached {i : Fin 32} {e : CacheEntry} {s : State} (same : e.rank = (s.cached i).rank)
    (h : ranksArePermutation s) : ranksArePermutation (setCached i e s) := by
  refine ranksArePermutation_congr (fun j => ?_) h
  rw [setCached_cached]
  split_ifs with hj
  · rw [same, hj]
  · rfl

theorem ranksArePermutation_invalidateWhere (p : CacheEntry → Bool) {s : State} (h : ranksArePermutation s) :
    ranksArePermutation (invalidateWhere p s) := by
  refine ranksArePermutation_congr (fun j => ?_) h
  rw [invalidateWhere_cached]; split_ifs <;> rfl

theorem Change.keeps_ranks (s t : State) (change : Change .command s t) (h : ranksArePermutation s) :
    ranksArePermutation t := by
  cases change with
  | touch i => exact ranksArePermutation_touch i h
  | cached _ i e same => exact ranksArePermutation_setCached same h
  | invalidate p => exact ranksArePermutation_invalidateWhere p h
  | post p => exact ranksArePermutation_congr (fun i => by rw [post_cached]) h
  | softReset => exact ranksArePermutation_of_rank_val fun i => by rw [softReset_cached]
  | hardReset => exact ranksArePermutation_of_rank_val fun i => congrArg CacheEntry.rank (reset_cached i)
  | leaving e => exact ranksArePermutation_congr (fun i => congrArg _ (cached_congr (lowerInFlight_cache _ _) i)) h
  | take e => exact ranksArePermutation_congr (fun i => congrArg _ (cached_congr (raiseInFlight_cache _ _) i)) h
  | opening n c => exact ranksArePermutation_congr (fun i => congrArg _ (cached_congr (raiseInFlight_cache _ _) i)) h
  | freeing n c => exact ranksArePermutation_congr (fun i => congrArg _ (cached_congr (lowerInFlight_cache _ _) i)) h
  | _ => exact h

/-- Settles O55, by cases on the single changes of a step: only a touch moves ranks. -/
theorem stepKeepsCacheRanks : Obligations.StepKeepsCacheRanks :=
  fun _ _ hs h => step_keeps (fun _ _ hu => hu) Change.keeps_ranks hs h

end Sys2Proof.Machine
end

section
/-! SUPPORT and CLAIM. The aperture laws (R1, R2) and the classes of operations (R139, R141), kept by every step. -/

namespace Sys2Proof.Machine

/-! ### The aperture laws (R1, R2) -/

/-- The pending list of a record is present exactly in REBINDING with phase VALIDATING (R1). -/
def Aperture.listPlaced (a : Aperture) : Prop := a.pendingList.isSome = true ↔ a.state = .rebinding .validating

/-- A record's window is no larger a claim than another's, and its pending list is placed where the other's is. -/
structure ApLawful (a b : Aperture) : Prop where
  window : b.claims = true → a.claims = true ∧ b.windowBase = a.windowBase ∧ b.windowSize = a.windowSize
  list : a.listPlaced → b.listPlaced

theorem ApLawful.refl (a : Aperture) : ApLawful a a := ⟨fun h => ⟨h, rfl, rfl⟩, id⟩

/-- The laws of the aperture table: disjoint windows and placed pending lists. -/
def apertureLaws (s : State) : Prop := windowsDisjoint s ∧ pendingListsPlaced s

theorem apertureLaws_of_lawful {s t : State} (lawful : ∀ k, ApLawful (s.ap k) (t.ap k)) (h : apertureLaws s) :
    apertureLaws t := by
  refine ⟨fun j k ne hj hk => ?_, fun k => (lawful k).list (h.2 k)⟩
  obtain ⟨claims_j, base_j, size_j⟩ := (lawful j).window hj
  obtain ⟨claims_k, base_k, size_k⟩ := (lawful k).window hk
  rw [base_j, size_j, base_k, size_k]
  exact h.1 j k ne claims_j claims_k

theorem apertureLaws_of_apertures {s t : State} (same : t.apertures = s.apertures) (h : apertureLaws s) :
    apertureLaws t := apertureLaws_of_lawful (fun k => ap_congr same k ▸ ApLawful.refl _) h

/-- A lawful change of one record, the other records standing, keeps the laws. -/
theorem apertureLaws_setAp {k : ApId} {a : Aperture} {s : State} (lawful : ApLawful (s.ap k) a) (h : apertureLaws s) :
    apertureLaws (setAp k a s) := by
  refine apertureLaws_of_lawful (fun j => ?_) h
  rw [setAp_ap]
  split_ifs with hj
  · exact hj ▸ lawful
  · exact ApLawful.refl _

theorem apertureLaws_updAp {k : ApId} {f : Aperture → Aperture} {s : State} (lawful : ApLawful (s.ap k) (f (s.ap k)))
    (h : apertureLaws s) : apertureLaws (updAp k f s) := apertureLaws_setAp lawful h

theorem apertureLaws_raiseInFlight (p : Option Place) {s : State} (h : apertureLaws s) :
    apertureLaws (raiseInFlight p s) := by
  cases p with
  | none => exact h
  | some x => exact apertureLaws_updAp ⟨fun hc => ⟨hc, rfl, rfl⟩, id⟩ h

theorem apertureLaws_lowerInFlight (p : Option Place) {s : State} (h : apertureLaws s) :
    apertureLaws (lowerInFlight p s) := by
  cases p with
  | none => exact h
  | some x => exact apertureLaws_updAp ⟨fun hc => ⟨hc, rfl, rfl⟩, id⟩ h

/-- A record at its FREE value claims no window and has no pending list. -/
theorem lawful_of_free {a b : Aperture} (free : b.state = .free) (none_pending : b.pendingList = none) :
    ApLawful a b :=
  ⟨fun h => by simp [Aperture.claims, free] at h, fun _ => by simp [Aperture.listPlaced, free, none_pending]⟩

theorem apertureLaws_of_free {s : State} (h : ∀ k, s.ap k = {}) : apertureLaws s :=
  ⟨fun j _ _ hj _ => by simp [h, Aperture.claims] at hj, fun k => by simp [h]⟩

theorem apertureLaws_enterFree (k : ApId) {s : State} (h : apertureLaws s) : apertureLaws (enterFree k s) :=
  apertureLaws_of_apertures (setPlaces_apertures _ _ _) (apertureLaws_updAp (lawful_of_free rfl rfl) h)

/-- A change that keeps a window, among states that both claim theirs. -/
theorem ApWindow.lawful {a b : Aperture} (w : ApWindow a b) (claims : a.state ≠ .free)
    (list : a.listPlaced → b.listPlaced) : ApLawful a b :=
  ⟨fun _ => ⟨by simpa [Aperture.claims] using claims, w.base, w.size⟩, list⟩

theorem ApKeeps.lawful {a b : Aperture} (h : ApKeeps a b) : ApLawful a b := by
  obtain ⟨w, state, list⟩ := h
  refine ⟨fun hc => ⟨?_, w.base, w.size⟩, fun placed => ?_⟩
  · simpa only [Aperture.claims, state] using hc
  · simpa only [Aperture.listPlaced, state, list] using placed

theorem ApSettles.lawful {a b : Aperture} (h : ApSettles a b) : ApLawful a b := by
  obtain ⟨w, settling, active, list⟩ := h
  exact w.lawful (by simp [settling]) fun placed => by simp_all [Aperture.listPlaced]

theorem ApMoves.lawful {a b : Aperture} (h : ApMoves a b) : ApLawful a b := by
  obtain ⟨w, ⟨loading, active, list⟩ | ⟨validating, active, list⟩ | ⟨validating, settling, list⟩ |
    ⟨serves, faulted, list⟩⟩ := h
  · exact w.lawful (by simp [loading]) fun placed => by simp_all [Aperture.listPlaced]
  · exact w.lawful (by simp [validating]) fun _ => by simp [Aperture.listPlaced, active, list]
  · exact w.lawful (by simp [validating]) fun _ => by simp [Aperture.listPlaced, settling, list]
  · exact w.lawful (fun free => by simp [free, ApState.serves] at serves)
      fun _ => by simp [Aperture.listPlaced, faulted, list]

theorem Aperture.quiesce_lawful (a : Aperture) : ApLawful a a.quiesce := by
  unfold Aperture.quiesce
  split
  · next validating =>
    have rebinding : a.state = .rebinding .validating := by simpa using validating
    exact ⟨fun _ => ⟨by simp [Aperture.claims, rebinding], rfl, rfl⟩, fun _ => by simp [Aperture.listPlaced]⟩
  · exact ApLawful.refl a

/-- A window that shares no address with a claimed one lies wholly beside it (R2, R170). -/
theorem not_windowTaken {l : LoadArgs} {s : State} (beside : windowTaken l.base l.size s = false) (j : ApId)
    (claims : (s.ap j).claims = true) :
    l.base.toNat + l.size ≤ (s.ap j).windowBase.toNat ∨
      (s.ap j).windowBase.toNat + (s.ap j).windowSize ≤ l.base.toNat := by
  have := List.any_eq_false.mp beside j (List.mem_finRange j)
  simp only [claims, Aperture.meets, Bool.true_and, Bool.and_eq_true, decide_eq_true_eq, not_and] at this
  omega

/-- A LOAD takes a window beside every claimed one, and no pending list. -/
theorem apertureLaws_loaded {k : ApId} {l : LoadArgs} {s : State} (beside : windowTaken l.base l.size s = false)
    (h : apertureLaws s) : apertureLaws (setAp k (Aperture.loaded l) s) := by
  obtain ⟨disjoint, placed⟩ := h
  refine ⟨fun i j ne hi hj => ?_, fun j => ?_⟩
  · simp only [setAp_ap] at hi hj ⊢
    split_ifs at hi hj ⊢ with ei ej ej
    · exact absurd (ei.trans ej.symm) ne
    · exact not_windowTaken beside j hj
    · exact (not_windowTaken beside i hi).symm
    · exact disjoint i j ne hi hj
  · rw [setAp_ap]
    split_ifs
    · simp [Aperture.loaded]
    · exact placed j

theorem Change.keeps_apertureLaws (s t : State) (change : Change .command s t) (h : apertureLaws s) :
    apertureLaws t := by
  cases change with
  | ap k a same => exact apertureLaws_setAp (same.elim ApKeeps.lawful ApSettles.lawful) h
  | apMove _ k a moves => exact apertureLaws_setAp moves.lawful h
  | drain k => exact apertureLaws_enterFree k h
  | unload _ k => exact apertureLaws_enterFree k h
  | leaving e => exact apertureLaws_lowerInFlight _ h
  | take e => exact apertureLaws_raiseInFlight _ h
  | opening n c => exact apertureLaws_raiseInFlight _ h
  | freeing n c => exact apertureLaws_lowerInFlight _ h
  | post p => exact apertureLaws_of_apertures (post_apertures p s) h
  | softReset => exact apertureLaws_of_free (softReset_ap s)
  | hardReset => exact apertureLaws_of_free reset_ap
  | quiesce =>
    refine apertureLaws_of_lawful (fun k => ?_) h
    simpa [State.ap] using (s.ap k).quiesce_lawful
  | forget =>
    refine apertureLaws_of_lawful (fun k => ?_) h
    simpa [State.ap] using (⟨fun hc => ⟨hc, rfl, rfl⟩, id⟩ : ApLawful (s.ap k) { s.ap k with resume := none })
  | load k l _ beside => exact apertureLaws_loaded beside h
  | rebind k l active =>
    exact apertureLaws_updAp ⟨fun _ => ⟨by simp [Aperture.claims, active], rfl, rfl⟩,
      fun _ => by simp [Aperture.listPlaced]⟩ h
  | retire k claims =>
    refine apertureLaws_updAp ⟨fun _ => ⟨?_, rfl, rfl⟩, fun _ => by simp [Aperture.listPlaced]⟩ h
    cases state : (s.ap k).state <;> simp_all [Aperture.claims, ApState.serves]
  | access k bs => exact apertureLaws_updAp ⟨fun hc => ⟨hc, rfl, rfl⟩, id⟩ h
  | touch i => exact apertureLaws_of_apertures (touch_apertures i s) h
  | _ => exact apertureLaws_of_apertures rfl h

/-- Settles O56, by cases on the single changes of a step: only LOAD makes a window, beside every claimed one. -/
theorem stepKeepsTheApertureLaws : Obligations.StepKeepsTheApertureLaws :=
  fun _ _ hs h => step_keeps (P := apertureLaws) (fun _ _ hu => hu) Change.keeps_apertureLaws hs h

/-! ### The classes of operations (R139, R141) -/

/-- An operation record of another's class and owner is classed with it. -/
theorem Op.classed_congr {op op' : Op} (cls : op'.cls = op.cls) (owner : op'.owner = op.owner) (h : op.classed) :
    op'.classed := fun o ho => cls ▸ h o (owner ▸ ho)

/-- Operations whose owner is forgotten are of any class. -/
theorem Op.classed_of_owner_none {op : Op} (gone : op.owner = none) : op.classed := fun o ho => by simp [gone] at ho

/-- A tag state is of its tag's class. -/
def TagState.classed (t : TagId) (x : TagState) : Prop := ∀ op, x = .outstanding op → op.cls = tagClass t ∧ op.classed

theorem TagState.classed_of_not_outstanding {t : TagId} {x : TagState} (h : ∀ op, x ≠ .outstanding op) :
    x.classed t := fun op hx => absurd hx (h op)

theorem TagState.classed_outstanding {t : TagId} {op : Op} (cls : op.cls = tagClass t) (own : op.classed) :
    (TagState.outstanding op).classed t := by
  rintro _ ⟨⟩
  exact ⟨cls, own⟩

theorem TagState.cancel_classed {t : TagId} {x : TagState} (p : OpName → Bool) (g : Bool) (h : x.classed t) :
    (x.cancel p g).classed t := by
  cases x with
  | free => exact h
  | quarantined f => exact h
  | outstanding op =>
    obtain ⟨cls, own⟩ := h op rfl
    simp only [TagState.cancel]
    split_ifs
    · exact classed_outstanding cls (Op.classed_of_owner_none rfl)
    · exact classed_outstanding (op := { op with cancelled := true }) cls own
    · exact h

theorem TagState.lower_classed {t : TagId} {x : TagState} (h : x.classed t) : x.lower.classed t := by
  cases x with
  | free => exact h
  | quarantined f => exact h
  | outstanding op => exact classed_outstanding (h op rfl).1 (h op rfl).2

/-- The law of classes, tag by tag and operation by operation. -/
theorem opsInClass_iff (s : State) :
    opsInClass s ↔ (∀ t, (s.tag t).classed t) ∧ ∀ p ∈ s.parked, p.op.classed := Iff.rfl

theorem opsInClass_congr {s t : State} (tags : t.tags = s.tags) (parked : t.parked = s.parked) (h : opsInClass s) :
    opsInClass t := by
  rw [opsInClass_iff, parked]
  exact ⟨fun u => tag_congr tags u ▸ h.1 u, h.2⟩

theorem opsInClass_setTag {t : TagId} {x : TagState} {s : State} (hx : x.classed t) (h : opsInClass s) :
    opsInClass (setTag t x s) := by
  refine ⟨fun u => ?_, h.2⟩
  rw [setTag_tag]
  split_ifs with hu
  · exact hu ▸ hx
  · exact h.1 u

theorem opsInClass_of_parked {s : State} {ps : List Parked} (parked : ∀ p ∈ ps, p.op.classed) (h : opsInClass s) :
    opsInClass { s with parked := ps } := ⟨h.1, parked⟩

/-- An issue under a tag of the operation's class. -/
theorem opsInClass_issue {t : TagId} {op : Op} {s : State} (cls : op.cls = tagClass t) (own : op.classed)
    (h : opsInClass s) : opsInClass (issue t op s) :=
  opsInClass_congr rfl rfl (opsInClass_setTag (TagState.classed_outstanding (op := { op with timer := _ }) cls own) h)

/-- The operation that waits for an owner is one of those parked, and that owner's. -/
theorem waitingOp_some {o : OpName} {s : State} {op : Op} (h : waitingOp o s = some op) :
    op.owner = some o ∧ ∃ p ∈ s.parked, p.op = op := by
  obtain ⟨p, found, rfl⟩ := Option.map_eq_some_iff.mp h
  have picked := List.find?_some found
  simp only [Bool.and_eq_true, beq_iff_eq] at picked
  exact ⟨picked.1, p, List.mem_of_find?_eq_some found, rfl⟩

theorem opsInClass_cancelOps (p : OpName → Bool) (g : Bool) {s : State} (h : opsInClass s) :
    opsInClass (cancelOps p g s) :=
  ⟨fun t => cancelOps_tag p g t s ▸ TagState.cancel_classed p g (h.1 t), fun _ hx => h.2 _ (List.mem_of_mem_filter hx)⟩

theorem opsInClass_of_no_ops {s : State} (tags : ∀ t, s.tag t = .free) (parked : s.parked = []) : opsInClass s :=
  ⟨fun t => tags t ▸ TagState.classed_of_not_outstanding (by simp), by simp [parked]⟩

theorem Change.keeps_opsInClass (s t : State) (change : Change .command s t) (h : opsInClass s) : opsInClass t := by
  cases change with
  | issue _ t op cls own => exact opsInClass_issue cls own h
  | reissue _ t o op cls waits =>
    obtain ⟨owner, p, held, rfl⟩ := waitingOp_some waits
    have unparked : opsInClass (unpark o s) := opsInClass_of_parked (fun _ hx => h.2 _ (List.mem_of_mem_filter hx)) h
    exact opsInClass_issue ((h.2 p held o owner).symm.trans cls) (h.2 p held) unparked
  | freeTag _ t => exact opsInClass_setTag (TagState.classed_of_not_outstanding (by simp)) h
  | quarantine _ t f => exact opsInClass_setTag (TagState.classed_of_not_outstanding (by simp)) h
  | cancel p g => exact opsInClass_cancelOps p g h
  | backoff _ t op op' held cls owner =>
    refine opsInClass_of_parked (fun x hx => ?_)
      (opsInClass_setTag (t := t) (TagState.classed_of_not_outstanding (by simp)) h)
    obtain hx | rfl := by simpa using hx
    · exact h.2 x hx
    · exact Op.classed_congr cls owner (h.1 t op held).2
  | timers =>
    refine ⟨fun u => ?_, h.2⟩
    have lowered : (lowerTimers s).tag u = (s.tag u).lower := by simp [lowerTimers, State.tag]
    exact lowered ▸ TagState.lower_classed (h.1 u)
  | backoffs f same =>
    refine opsInClass_of_parked (fun x hx => ?_) h
    obtain ⟨p, hp, rfl⟩ := List.mem_map.mp hx
    exact same p hp ▸ h.2 p hp
  | post p => exact opsInClass_congr (post_tags p s) (post_parked p s) h
  | softReset => exact opsInClass_of_no_ops (softReset_tag s) (post_parked _ _)
  | hardReset => exact opsInClass_of_no_ops reset_tag rfl
  | leaving e => exact opsInClass_congr (lowerInFlight_tags _ _) (lowerInFlight_parked _ _) h
  | take e => exact opsInClass_congr (raiseInFlight_tags _ _) (raiseInFlight_parked _ _) h
  | opening n c => exact opsInClass_congr (raiseInFlight_tags _ _) (raiseInFlight_parked _ _) h
  | freeing n c => exact opsInClass_congr (lowerInFlight_tags _ _) (lowerInFlight_parked _ _) h
  | touch i => exact opsInClass_congr (touch_tags i s) (touch_parked i s) h
  | _ => exact opsInClass_congr rfl rfl h

/-- Settles O58, by cases on the single changes of a step: tags take operations of their own class, and parked ones keep
class and owner. -/
theorem stepKeepsOperationsInClass : Obligations.StepKeepsOperationsInClass :=
  fun _ _ hs h => step_keeps (fun _ _ hu => hu) Change.keeps_opsInClass hs h

end Sys2Proof.Machine
end

section
/-! SUPPORT and CLAIM. The capacities of the queues and the ranges of settings, limits and saturating counts (R6, R27,
R59, R86, R89, R129, R153, R156, R159), kept by every step. -/

namespace Sys2Proof.Machine

/-- The ranges of one requester record (Section 7.1, R86). -/
def Requester.inRange (q : Requester) : Prop :=
  1 ≤ q.postedLimit ∧ q.postedLimit ≤ 16 ∧ 1 ≤ q.slotLimit ∧ q.slotLimit ≤ 4 ∧ q.refusedCount ≤ 65535

/-- Capacities and ranges, block by block. -/
structure Bounded (s : State) : Prop where
  queues : queuesBounded s
  settings : s.settings.inRange
  requesters : ∀ r, (s.req r).inRange
  faults : ∀ k, (s.ap k).faultCount ≤ 255

theorem bounded_iff (s : State) : Bounded s ↔ queuesBounded s ∧ settingsInRange s :=
  ⟨fun h => ⟨h.queues, h.settings, h.requesters, h.faults⟩,
    fun ⟨queues, settings, requesters, faults⟩ => ⟨queues, settings, requesters, faults⟩⟩

/-! ### One block changes, the others stand -/

/-- The bounds go over to a state none of whose bounded values has grown. -/
theorem Bounded.mono {s t : State} (h : Bounded s) (queues : queuesBounded t) (settings : t.settings = s.settings)
    (requesters : ∀ r, (t.req r).inRange) (faults : ∀ k, (t.ap k).faultCount ≤ (s.ap k).faultCount) : Bounded t :=
  ⟨queues, settings ▸ h.settings, requesters, fun k => (faults k).trans (h.faults k)⟩

theorem Bounded.congr {s t : State} (h : Bounded s) (queues : queuesBounded t) (settings : t.settings = s.settings)
    (requesters : t.requesters = s.requesters) (apertures : t.apertures = s.apertures) : Bounded t :=
  h.mono queues settings (fun r => req_congr requesters r ▸ h.requesters r)
    fun k => (congrArg Aperture.faultCount (ap_congr apertures k)).le

theorem Bounded.setAp {s : State} (h : Bounded s) (k : ApId) {a : Aperture} (bound : a.faultCount ≤ 255) :
    Bounded (setAp k a s) := by
  refine ⟨h.queues, h.settings, h.requesters, fun j => ?_⟩
  rw [setAp_ap]
  split_ifs
  · exact bound
  · exact h.faults j

theorem Bounded.updAp {s : State} (h : Bounded s) (k : ApId) {f : Aperture → Aperture}
    (same : (f (s.ap k)).faultCount = (s.ap k).faultCount) : Bounded (updAp k f s) :=
  h.setAp k (same ▸ h.faults k)

theorem Bounded.setReq {s : State} (h : Bounded s) (r : ReqId) {q : Requester} (range : q.inRange) :
    Bounded (setReq r q s) := by
  refine ⟨h.queues, h.settings, fun p => ?_, h.faults⟩
  rw [setReq_req]
  split_ifs
  · exact range
  · exact h.requesters p

theorem Bounded.updReq {s : State} (h : Bounded s) (r : ReqId) {f : Requester → Requester}
    (range : (s.req r).inRange → (f (s.req r)).inRange) : Bounded (updReq r f s) :=
  h.setReq r (range (h.requesters r))

theorem Bounded.raiseInFlight {s : State} (h : Bounded s) (p : Option Place) : Bounded (raiseInFlight p s) := by
  cases p with
  | none => exact h
  | some x => exact Bounded.setAp h x.aperture (h.faults x.aperture)

theorem Bounded.lowerInFlight {s : State} (h : Bounded s) (p : Option Place) : Bounded (lowerInFlight p s) := by
  cases p with
  | none => exact h
  | some x => exact Bounded.setAp h x.aperture (h.faults x.aperture)

theorem Bounded.setPostQueue {s : State} (h : Bounded s) {q : List PostEntry} (room : q.length ≤ 16) :
    Bounded (setPostQueue q s) := by
  obtain ⟨reports, dropped, -, jobs, misses⟩ := h.queues
  exact ⟨⟨reports, dropped, room, jobs, misses⟩, h.settings, h.requesters, h.faults⟩

/-- An entry to FREE keeps the fault count (Section 1.1). -/
theorem Bounded.enterFree {s : State} (h : Bounded s) (k : ApId) : Bounded (enterFree k s) := by
  have freed : Bounded (Machine.updAp k Aperture.freed s) := h.updAp k rfl
  exact freed.congr freed.queues rfl rfl rfl

theorem Bounded.post {s : State} (h : Bounded s) (p : Report) : Bounded (post p s) := by
  obtain ⟨reports, dropped, entries, jobs, misses⟩ := h.queues
  refine h.congr ?_ (post_settings p s) (post_requesters p s) (post_apertures p s)
  unfold Machine.post
  split_ifs with room
  · refine ⟨?_, dropped, entries, jobs, misses⟩
    simpa using room
  · exact ⟨reports, Nat.min_le_left _ _, entries, jobs, misses⟩

theorem bounded_reset : Bounded State.reset :=
  ⟨by simp [queuesBounded, State.reset], by simp [Settings.inRange, State.reset],
    fun r => by simp [reset_req, Requester.inRange], fun k => by simp [reset_ap]⟩

/-- Only the reset values of the bounded blocks matter. -/
theorem bounded_softReset (s : State) : Bounded (softReset s) :=
  Bounded.post (s := { State.reset with
    pending := s.pending, response := s.response, tickCounter := s.tickCounter, resetLow := s.resetLow
    out := s.out, nextAge := s.nextAge, choices := s.choices })
    (bounded_reset.congr bounded_reset.queues rfl rfl rfl) _

theorem ReqCounts.inRange {p q : Requester} (h : ReqCounts p q) (range : p.inRange) : q.inRange := by
  obtain ⟨posted, posted', slots, slots', refused⟩ := range
  have le := h.refused
  obtain ⟨same, same'⟩ | limits := h.limits
  · exact ⟨by omega, by omega, by omega, by omega, by omega⟩
  · exact ⟨limits.1, limits.2.1, limits.2.2.1, limits.2.2.2, by omega⟩

theorem Requester.markAt_inRange {q : Requester} (seq : Seq) (h : q.inRange) : (q.markAt seq).inRange := by
  unfold Requester.markAt
  split
  · split_ifs <;> exact h
  · exact h

/-! ### Every single change -/

theorem ApWindow.faults_le {a b : Aperture} (w : ApWindow a b) (h : a.faultCount ≤ 255) : b.faultCount ≤ 255 :=
  w.faults.trans (max_le le_rfl h)

theorem Change.keeps_bounded (s t : State) (change : Change .command s t) (h : Bounded s) : Bounded t := by
  obtain ⟨reports, dropped, entries, jobs, misses⟩ := h.queues
  cases change with
  | ap k a same => exact h.setAp k ((same.elim And.left And.left).faults_le (h.faults k))
  | apMove _ k a moves => exact h.setAp k (moves.1.faults_le (h.faults k))
  | drain k => exact h.enterFree k
  | unload _ k => exact h.enterFree k
  | jobs _ js shorter => exact h.congr ⟨reports, dropped, entries, shorter.trans jobs, misses⟩ rfl rfl rfl
  | join k p l room =>
    exact h.congr ⟨reports, dropped, entries, by simpa using room, misses⟩ rfl rfl rfl
  | misses q short => exact h.congr ⟨reports, dropped, entries, jobs, short.trans (max_le le_rfl misses)⟩ rfl rfl rfl
  | entries f => exact h.setPostQueue (by simpa using entries)
  | leaving e =>
    refine Bounded.lowerInFlight (Bounded.updReq (Bounded.setPostQueue h ?_) _ fun range => ?_) _
    · exact (List.length_filter_le _ _).trans entries
    · exact Requester.markAt_inRange _ range
  | loss r => exact h.updReq r id
  | post p => exact h.post p
  | softReset => exact bounded_softReset s
  | settings g range => exact ⟨h.queues, range, h.requesters, h.faults⟩
  | quiesce =>
    refine h.mono h.queues rfl h.requesters fun k => ?_
    have quiesced : (s.ap k).quiesce.faultCount = (s.ap k).faultCount := by
      unfold Aperture.quiesce; split_ifs <;> rfl
    simpa [State.ap] using quiesced.le
  | forget => exact h.mono h.queues rfl h.requesters fun k => by simp [State.ap]
  | clearDropped => exact h.congr ⟨reports, Nat.zero_le _, entries, jobs, misses⟩ rfl rfl rfl
  | pop =>
    refine h.congr ⟨?_, dropped, entries, jobs, misses⟩ rfl rfl rfl
    exact (List.tail_sublist _).length_le.trans reports
  | take e room =>
    have added : Bounded { s with postQueue := s.postQueue ++ [e], nextAge := s.nextAge + 1 } :=
      h.congr ⟨reports, dropped, by simpa using room, jobs, misses⟩ rfl rfl rfl
    refine Bounded.raiseInFlight (added.updReq _ ?_) _
    exact id
  | opening n c =>
    have opened : Bounded (setSlot n (some c) { s with nextAge := s.nextAge + 1 }) := h.congr h.queues rfl rfl rfl
    refine Bounded.raiseInFlight (opened.updReq _ ?_) _
    exact id
  | freeing n c =>
    have emptied : Bounded (setSlot n none s) := h.congr h.queues rfl rfl rfl
    refine Bounded.lowerInFlight (emptied.updReq _ ?_) _
    exact id
  | load k l => exact h.setAp k (Nat.zero_le _)
  | rebind k l => exact h.updAp k rfl
  | retire k => exact h.updAp k rfl
  | access k bs => exact h.updAp k rfl
  | req r q counts => exact h.setReq r (counts.inRange (h.requesters r))
  | hardReset => exact bounded_reset.congr bounded_reset.queues rfl rfl rfl
  | touch i =>
    exact h.congr (by simpa only [queuesBounded, touch_reports, touch_dropped, touch_postQueue, touch_jobs,
      touch_missQueue] using h.queues) (touch_settings i s) (touch_requesters i s) (touch_apertures i s)
  | _ => exact h.congr h.queues rfl rfl rfl

/-- Settles O57, by cases on the single changes of a step: a queue grows only where it has room, and counts saturate. -/
theorem stepKeepsCapacitiesAndRanges : Obligations.StepKeepsCapacitiesAndRanges := by
  intro s t hs h
  rw [← bounded_iff] at hs ⊢
  exact step_keeps (fun _ _ hu => hu.congr hu.queues rfl rfl rfl) Change.keeps_bounded hs h

end Sys2Proof.Machine
end

section
/-! SUPPORT and CLAIM. The counts agree with what they count, kept by every step: sequence numbers (R91, R131), open slot
counts and match keys (R109), and in-flight counts (R5, R12). -/

namespace Sys2Proof.Machine

/-! ### Counting slots -/

/-- The occupied slots that a test picks, counted slot by slot. -/
def slotCount (p : Slot → Bool) (s : State) : Nat := ∑ n : SlotId, if (s.slot n).elim false p then 1 else 0

theorem length_occupied_filter (p : Slot → Bool) (s : State) :
    ((occupied s).filter fun n => (s.slot n).elim false p).length = slotCount p s := by
  have picked (n : SlotId) : ((s.slot n).elim false p && (s.slot n).isSome) = (s.slot n).elim false p := by
    cases s.slot n <;> simp
  rw [slotCount, ← Finset.card_filter, occupied, List.filter_filter, ← List.toFinset_card_of_nodup
    ((List.nodup_finRange 8).filter _), List.toFinset_filter, List.toFinset_finRange]
  simp only [picked]

theorem slotsOfReq_eq (r : ReqId) (s : State) : slotsOfReq r s = slotCount (·.core.requester == r) s :=
  length_occupied_filter _ s

theorem attributedTo_eq (k : ApId) (s : State) :
    attributedTo k s = (s.postQueue.filter (·.core.attributed k)).length + slotCount (·.core.attributed k) s :=
  congrArg _ (length_occupied_filter _ s)

/-- The count depends only on what the test says of each slot. -/
theorem slotCount_congr {p : Slot → Bool} {s t : State}
    (same : ∀ n, (t.slot n).elim false p = (s.slot n).elim false p) : slotCount p t = slotCount p s := by
  simp only [slotCount, same]

/-- With every slot EMPTY nothing is counted. -/
theorem slotCount_of_empty {p : Slot → Bool} {s : State} (empty : ∀ n, s.slot n = none) : slotCount p s = 0 := by
  simp [slotCount, empty]

/-- One slot is replaced: the count loses what stood there and gains what stands there now. -/
theorem slotCount_of_replaced {p : Slot → Bool} {s t : State} (n : SlotId) (others : ∀ m, m ≠ n → t.slot m = s.slot m) :
    slotCount p t + (if (s.slot n).elim false p then 1 else 0) =
      slotCount p s + (if (t.slot n).elim false p then 1 else 0) := by
  have rest : ∑ m ∈ Finset.univ.erase n, (if (t.slot m).elim false p then 1 else 0) =
      ∑ m ∈ Finset.univ.erase n, (if (s.slot m).elim false p then 1 else 0) :=
    Finset.sum_congr rfl fun m hm => by rw [others m (Finset.ne_of_mem_erase hm)]
  have split (u : State) := Finset.add_sum_erase (a := n) Finset.univ
    (fun m => if (u.slot m).elim false p then 1 else 0) (Finset.mem_univ n)
  have split_s := split s
  have split_t := split t
  simp only [slotCount]
  omega

/-- What a test of the fields that stay says of a slot, before and after. -/
theorem SlotStays.elim_eq {x y : Option Slot} {p : Slot → Bool} (stays : SlotStays x y)
    (same : ∀ c d, SlotKeeps c d → p d = p c) : y.elim false p = x.elim false p := by
  cases x with
  | none => rw [show y = none from stays]
  | some c =>
    obtain ⟨d, rfl, keeps⟩ := stays
    exact same c d keeps

/-! ### Sequence numbers (R91, R131) -/

/-- The consecutive numbers after `c`, `n` of them. -/
def following (c : Seq) (n : Nat) : List Seq := (List.range n).map fun i => c + BitVec.ofNat 8 (i + 1)

theorem following_succ_last (c : Seq) (n : Nat) : following c (n + 1) = following c n ++ [c + BitVec.ofNat 8 (n + 1)] := by
  simp [following, List.range_succ]

theorem add_ofNat_succ (c : Seq) (n : Nat) : c + BitVec.ofNat 8 (n + 1) = c + BitVec.ofNat 8 n + 1 := by
  rw [BitVec.ofNat_add, ← BitVec.add_assoc]; rfl

theorem following_succ (c : Seq) (n : Nat) : following c (n + 1) = (c + 1) :: following (c + 1) n := by
  have shift (i : Nat) : c + BitVec.ofNat 8 (i + 1 + 1) = c + 1 + BitVec.ofNat 8 (i + 1) := by
    rw [add_ofNat_succ, add_right_comm]
  simp only [following, List.range_succ_eq_map, List.map_cons, List.map_map, Function.comp_def, Nat.succ_eq_add_one,
    shift]
  rfl

/-- Fewer than 256 consecutive numbers do not come back to the number they follow. -/
theorem self_not_mem_following (c : Seq) {n : Nat} (short : n < 256) : c ∉ following c n := by
  intro mem
  obtain ⟨i, hi, e⟩ := List.mem_map.mp mem
  have := List.mem_range.mp hi
  bv_omega

/-- The law of sequence numbers for one requester's entries. -/
def followsFrom (q : Requester) (es : List PostEntry) : Prop :=
  es.map (·.sequence) = following q.completed q.queuedWrites ∧
    q.taken = q.completed + BitVec.ofNat 8 q.queuedWrites

theorem sequencesFollow_iff (s : State) :
    sequencesFollow s ↔ s.postQueue.length ≤ 16 ∧ ∀ r, followsFrom (s.req r) (entriesOfReq r s) := Iff.rfl

theorem followsFrom_congr {q q' : Requester} {es es' : List PostEntry} (sequences : es'.map (·.sequence) = es.map (·.sequence))
    (taken : q'.taken = q.taken) (completed : q'.completed = q.completed) (queued : q'.queuedWrites = q.queuedWrites)
    (h : followsFrom q es) : followsFrom q' es' := by
  rw [followsFrom, sequences, taken, completed, queued]
  exact h

/-- A state with the same entries, and the same sequences and counts of writes in each requester record. -/
theorem sequencesFollow_congr {s t : State} (entries : t.postQueue = s.postQueue)
    (requesters : ∀ r, (t.req r).taken = (s.req r).taken ∧ (t.req r).completed = (s.req r).completed ∧
      (t.req r).queuedWrites = (s.req r).queuedWrites) (h : sequencesFollow s) : sequencesFollow t := by
  rw [sequencesFollow_iff, entries]
  refine ⟨h.1, fun r => ?_⟩
  obtain ⟨taken, completed, queued⟩ := requesters r
  refine followsFrom_congr ?_ taken completed queued (h.2 r)
  simp only [entriesOfReq, entries]

theorem sequencesFollow_of_same {s t : State} (entries : t.postQueue = s.postQueue)
    (requesters : t.requesters = s.requesters) (h : sequencesFollow s) : sequencesFollow t :=
  sequencesFollow_congr entries (fun r => by simp only [req_congr requesters, and_self]) h

/-- A change of one requester record that keeps its sequences and its count of writes. -/
theorem sequencesFollow_setReq {r : ReqId} {q : Requester} {s : State} (taken : q.taken = (s.req r).taken)
    (completed : q.completed = (s.req r).completed) (queued : q.queuedWrites = (s.req r).queuedWrites)
    (h : sequencesFollow s) : sequencesFollow (setReq r q s) := by
  refine sequencesFollow_congr (s := s) rfl (fun p => ?_) h
  rw [setReq_req]
  split_ifs with hp
  · rw [hp]; exact ⟨taken, completed, queued⟩
  · exact ⟨rfl, rfl, rfl⟩

theorem sequencesFollow_of_empty {s : State} (entries : s.postQueue = []) (requesters : ∀ r, s.req r = {}) :
    sequencesFollow s := by
  refine ⟨by simp [entries], fun r => ?_⟩
  simp [entriesOfReq, entries, requesters]

theorem sequencesFollow_setPostQueue_map {f : PostEntry → PostEntry} {s : State}
    (keeps : ∀ e ∈ s.postQueue, EntryKeeps e (f e)) (h : sequencesFollow s) :
    sequencesFollow (setPostQueue (s.postQueue.map f) s) := by
  rw [sequencesFollow_iff]
  refine ⟨by simpa using h.1, fun r => followsFrom_congr ?_ rfl rfl rfl (h.2 r)⟩
  have same_req : ∀ e ∈ s.postQueue, ((f e).core.requester == r) = (e.core.requester == r) :=
    fun e he => by rw [(keeps e he).requester]
  simp only [entriesOfReq, setPostQueue_postQueue, List.filter_map, List.map_map, Function.comp_def]
  rw [List.filter_congr same_req]
  exact List.map_congr_left fun e he => (keeps e (List.mem_of_mem_filter he)).sequence

/-- A requester's head is the first of its entries. -/
theorem entriesOfReq_of_head {r : ReqId} {e : PostEntry} {s : State} (h : head r s = some e) :
    ∃ es, entriesOfReq r s = e :: es := by
  rw [head, ← List.head?_filter] at h
  exact List.head?_eq_some_iff.mp h

/-- Of a requester's entries, the leaving of its head removes the head alone. -/
theorem entriesOfReq_remove_head {e : PostEntry} {es : List PostEntry} {s : State} (h : sequencesFollow s)
    (split : entriesOfReq e.core.requester s = e :: es) :
    (entriesOfReq e.core.requester s).filter (fun x => !x.named e.core.requester e.sequence) = es := by
  obtain ⟨sequences, -⟩ := h.2 e.core.requester
  rw [split] at sequences
  have short : (e :: es).length ≤ 16 := split ▸ (List.length_filter_le _ _).trans h.1
  cases queued : (s.req e.core.requester).queuedWrites with
  | zero => simp [queued] at sequences
  | succ n =>
    rw [queued, show (List.range (n + 1)).map _ = following _ (n + 1) from rfl, following_succ] at sequences
    obtain ⟨head_seq, tail_seq⟩ := List.cons.inj sequences
    have few : n < 256 := by
      have := congrArg List.length tail_seq
      simp only [List.length_map, following, List.length_range] at this
      simp only [List.length_cons] at short
      omega
    have others : ∀ x ∈ es, (!x.named e.core.requester e.sequence) = true := by
      intro x hx
      have mem : x.sequence ∈ following ((s.req e.core.requester).completed + 1) n :=
        tail_seq ▸ List.mem_map_of_mem hx
      have ne : x.sequence ≠ e.sequence := fun eq =>
        self_not_mem_following _ few (head_seq ▸ eq ▸ mem)
      simp [PostEntry.named, ne]
    rw [split, List.filter_cons_of_neg (by simp [PostEntry.named]), List.filter_eq_self.mpr others]

theorem removeEntry_postQueue (e : PostEntry) (s : State) :
    (removeEntry e s).postQueue = s.postQueue.filter fun x => !(x.named e.core.requester e.sequence) :=
  lowerInFlight_postQueue _ _

theorem removeEntry_req (e : PostEntry) (s : State) (r : ReqId) :
    (removeEntry e s).req r = if r = e.core.requester
      then { (s.req r).markAt e.sequence with completed := e.sequence, queuedWrites := (s.req r).queuedWrites - 1 }
      else s.req r := by
  rw [removeEntry, req_congr (lowerInFlight_requesters _ _), updReq_req]
  split_ifs with hr
  · rw [hr]; rfl
  · rfl

theorem Requester.markAt_taken (q : Requester) (seq : Seq) : (q.markAt seq).taken = q.taken := by
  unfold Requester.markAt; split
  · split_ifs <;> rfl
  · rfl

theorem Requester.markAt_openSlots (q : Requester) (seq : Seq) : (q.markAt seq).openSlots = q.openSlots := by
  unfold Requester.markAt; split
  · split_ifs <;> rfl
  · rfl

/-- The entries of another requester stand at a leaving. -/
theorem entriesOfReq_removeEntry_of_ne {r : ReqId} {e : PostEntry} (ne : r ≠ e.core.requester) (s : State) :
    entriesOfReq r (removeEntry e s) = entriesOfReq r s := by
  rw [entriesOfReq, removeEntry_postQueue, List.filter_filter]
  refine List.filter_congr fun x _ => ?_
  by_cases hx : x.core.requester = r
  · simp [hx, PostEntry.named, ne]
  · simp [hx]

theorem entriesOfReq_removeEntry_self {e : PostEntry} {es : List PostEntry} {s : State} (h : sequencesFollow s)
    (split : entriesOfReq e.core.requester s = e :: es) : entriesOfReq e.core.requester (removeEntry e s) = es := by
  rw [← entriesOfReq_remove_head h split, entriesOfReq, entriesOfReq, removeEntry_postQueue, List.filter_filter,
    List.filter_filter]
  exact List.filter_congr fun x _ => Bool.and_comm _ _

theorem sequencesFollow_removeEntry {e : PostEntry} {s : State} (first : head e.core.requester s = some e)
    (h : sequencesFollow s) : sequencesFollow (removeEntry e s) := by
  rw [sequencesFollow_iff, removeEntry_postQueue]
  refine ⟨(List.length_filter_le _ _).trans h.1, fun r => ?_⟩
  rw [removeEntry_req]
  split_ifs with hr
  · subst hr
    obtain ⟨es, split⟩ := entriesOfReq_of_head first
    obtain ⟨sequences, taken⟩ := h.2 e.core.requester
    rw [entriesOfReq_removeEntry_self h split]
    rw [split] at sequences
    cases queued : (s.req e.core.requester).queuedWrites with
    | zero => simp [queued] at sequences
    | succ n =>
      rw [queued, show (List.range (n + 1)).map _ = following _ (n + 1) from rfl, following_succ] at sequences
      obtain ⟨head_seq, tail_seq⟩ := List.cons.inj sequences
      refine ⟨?_, ?_⟩
      · simpa only [head_seq, Nat.add_sub_cancel] using tail_seq
      · simp only [Requester.markAt_taken, head_seq, Nat.add_sub_cancel]
        rw [taken, queued, add_ofNat_succ, add_right_comm]
  · rw [entriesOfReq_removeEntry_of_ne hr]
    exact h.2 r

theorem createEntry_postQueue (e : PostEntry) (s : State) : (createEntry e s).postQueue = s.postQueue ++ [e] :=
  raiseInFlight_postQueue _ _

theorem createEntry_req (e : PostEntry) (s : State) (r : ReqId) :
    (createEntry e s).req r = if r = e.core.requester
      then { s.req r with taken := e.sequence, queuedWrites := (s.req r).queuedWrites + 1 } else s.req r := by
  rw [createEntry, req_congr (raiseInFlight_requesters _ _), updReq_req]
  split_ifs with hr
  · rw [hr]; rfl
  · rfl

theorem sequencesFollow_createEntry {e : PostEntry} {s : State} (room : s.postQueue.length < 16)
    (next : e.sequence = (s.req e.core.requester).taken + 1) (h : sequencesFollow s) :
    sequencesFollow (createEntry e s) := by
  rw [sequencesFollow_iff, createEntry_postQueue]
  refine ⟨by simpa using room, fun r => ?_⟩
  obtain ⟨sequences, taken⟩ := h.2 r
  rw [createEntry_req, entriesOfReq, createEntry_postQueue, List.filter_append]
  split_ifs with hr
  · subst hr
    have number : e.sequence = (s.req e.core.requester).completed +
        BitVec.ofNat 8 ((s.req e.core.requester).queuedWrites + 1) := by rw [next, taken, add_ofNat_succ]
    refine ⟨?_, number⟩
    rw [following_succ_last, ← number, List.map_append]
    exact congrArg₂ _ sequences (by simp)
  · refine followsFrom_congr ?_ rfl rfl rfl (h.2 r)
    rw [List.filter_cons_of_neg (by simpa using Ne.symm hr)]
    simp [entriesOfReq]

theorem Change.keeps_sequences (s t : State) (change : Change .command s t) (h : sequencesFollow s) :
    sequencesFollow t := by
  cases change with
  | entries f keeps => exact sequencesFollow_setPostQueue_map keeps h
  | leaving e first => exact sequencesFollow_removeEntry first h
  | take e room next => exact sequencesFollow_createEntry room next h
  | loss r => exact sequencesFollow_setReq rfl rfl rfl h
  | req r q counts => exact sequencesFollow_setReq counts.taken counts.completed counts.queued h
  | opening n c =>
    refine sequencesFollow_of_same (raiseInFlight_postQueue _ _) (raiseInFlight_requesters _ _) ?_
    refine sequencesFollow_setReq rfl rfl rfl (sequencesFollow_of_same (s := s) ?_ ?_ h) <;> rfl
  | freeing n c =>
    refine sequencesFollow_of_same (lowerInFlight_postQueue _ _) (lowerInFlight_requesters _ _) ?_
    refine sequencesFollow_setReq rfl rfl rfl (sequencesFollow_of_same (s := s) ?_ ?_ h) <;> rfl
  | post p => exact sequencesFollow_of_same (post_postQueue p s) (post_requesters p s) h
  | softReset => exact sequencesFollow_of_empty (post_postQueue _ _) (softReset_req s)
  | hardReset => exact sequencesFollow_of_empty rfl reset_req
  | touch i => exact sequencesFollow_of_same (touch_postQueue i s) (touch_requesters i s) h
  | _ => exact sequencesFollow_of_same rfl rfl h

end Sys2Proof.Machine
end

section
/-! SUPPORT and CLAIM. Open slot counts, match keys (R109) and in-flight counts (R5, R12), kept by every step. -/

namespace Sys2Proof.Machine

/-! ### Opening and freeing a slot -/

theorem addSlot_slot (n m : SlotId) (c : Slot) (s : State) :
    (addSlot n c s).slot m = if m = n then some c else s.slot m := by
  rw [addSlot, slot_congr (raiseInFlight_slots _ _), slot_congr (updReq_slots _ _ _), setSlot_slot]
  rfl

theorem removeSlot_slot (n m : SlotId) (c : Slot) (s : State) :
    (removeSlot n c s).slot m = if m = n then none else s.slot m := by
  rw [removeSlot, slot_congr (lowerInFlight_slots _ _), slot_congr (updReq_slots _ _ _), setSlot_slot]

theorem addSlot_req (n : SlotId) (c : Slot) (s : State) (r : ReqId) :
    (addSlot n c s).req r = if r = c.core.requester then { s.req r with openSlots := (s.req r).openSlots + 1 }
      else s.req r := by
  rw [addSlot, req_congr (raiseInFlight_requesters _ _), updReq_req]
  split_ifs with hr
  · rw [hr]; rfl
  · rfl

theorem removeSlot_req (n : SlotId) (c : Slot) (s : State) (r : ReqId) :
    (removeSlot n c s).req r = if r = c.core.requester then { s.req r with openSlots := (s.req r).openSlots - 1 }
      else s.req r := by
  rw [removeSlot, req_congr (lowerInFlight_requesters _ _), updReq_req]
  split_ifs with hr
  · rw [hr]; rfl
  · rfl

/-- The occupant of a slot that opens is counted where a test picks it. -/
theorem slotCount_addSlot {n : SlotId} {c : Slot} {s : State} (empty : s.slot n = none) (p : Slot → Bool) :
    slotCount p (addSlot n c s) = slotCount p s + if p c then 1 else 0 := by
  have := slotCount_of_replaced (p := p) (s := s) (t := addSlot n c s) n fun m hm => by rw [addSlot_slot, if_neg hm]
  simpa [addSlot_slot, empty] using this

theorem slotCount_removeSlot {n : SlotId} {c : Slot} {s : State} (held : s.slot n = some c) (p : Slot → Bool) :
    slotCount p (removeSlot n c s) + (if p c then 1 else 0) = slotCount p s := by
  have := slotCount_of_replaced (p := p) (s := s) (t := removeSlot n c s) n fun m hm => by rw [removeSlot_slot, if_neg hm]
  simpa [removeSlot_slot, held] using this

/-! ### Open slot counts and match keys (R109) -/

/-- No two occupied slots carry the same match key. -/
def keysDistinct (s : State) : Prop :=
  ∀ m n : SlotId, ∀ c d : Slot, s.slot m = some c → s.slot n = some d →
    c.core.requester = d.core.requester → c.core.address = d.core.address → c.core.length = d.core.length → m = n

theorem slotsCounted_iff (s : State) :
    slotsCounted s ↔ (∀ r, (s.req r).openSlots = slotCount (·.core.requester == r) s) ∧ keysDistinct s := by
  simp only [slotsCounted, slotsOfReq_eq, keysDistinct]

/-- A state whose slots keep their occupants, with the same open slot counts. -/
theorem slotsCounted_of_stays {s t : State} (slots : ∀ n, SlotStays (s.slot n) (t.slot n))
    (counts : ∀ r, (t.req r).openSlots = (s.req r).openSlots) (h : slotsCounted s) : slotsCounted t := by
  rw [slotsCounted_iff] at h ⊢
  obtain ⟨counted, distinct⟩ := h
  have occupant (n : SlotId) (d : Slot) (hd : t.slot n = some d) : ∃ c, s.slot n = some c ∧ SlotKeeps c d := by
    have stays := slots n
    cases hc : s.slot n with
    | none => rw [hc, hd] at stays; simp [SlotStays] at stays
    | some c =>
      rw [hc, hd] at stays
      obtain ⟨_, ⟨⟩, keeps⟩ := stays
      exact ⟨c, rfl, keeps⟩
  refine ⟨fun r => ?_, fun m n c' d' hc' hd' req adr len => ?_⟩
  · rw [counts r, counted r]
    exact (slotCount_congr fun n => (slots n).elim_eq fun c d keeps => by simp only [keeps.requester]).symm
  · obtain ⟨c, hc, kc⟩ := occupant m c' hc'
    obtain ⟨d, hd, kd⟩ := occupant n d' hd'
    refine distinct m n c d hc hd ?_ ?_ ?_
    · rw [← kc.requester, ← kd.requester, req]
    · rw [← kc.address, ← kd.address, adr]
    · rw [← kc.length, ← kd.length, len]

theorem slotsCounted_congr {s t : State} (slots : t.slots = s.slots)
    (counts : ∀ r, (t.req r).openSlots = (s.req r).openSlots) (h : slotsCounted s) : slotsCounted t :=
  slotsCounted_of_stays (fun n => slot_congr slots n ▸ SlotStays.refl _) counts h

theorem slotsCounted_of_same {s t : State} (slots : t.slots = s.slots) (requesters : t.requesters = s.requesters)
    (h : slotsCounted s) : slotsCounted t :=
  slotsCounted_congr slots (fun r => by rw [req_congr requesters]) h

theorem slotsCounted_setReq {r : ReqId} {q : Requester} {s : State} (count : q.openSlots = (s.req r).openSlots)
    (h : slotsCounted s) : slotsCounted (setReq r q s) := by
  refine slotsCounted_congr (s := s) rfl (fun p => ?_) h
  rw [setReq_req]
  split_ifs with hp
  · rw [hp, count]
  · rfl

theorem slotsCounted_of_empty {s : State} (slots : ∀ n, s.slot n = none) (requesters : ∀ r, s.req r = {}) :
    slotsCounted s := by
  rw [slotsCounted_iff]
  exact ⟨fun r => by rw [requesters, slotCount_of_empty slots], fun m n c d hc => by simp [slots] at hc⟩

theorem slotsCounted_addSlot {n : SlotId} {c : Slot} {s : State} (empty : s.slot n = none)
    (fresh : ∀ m d, s.slot m = some d → d.core.requester = c.core.requester → d.core.address = c.core.address →
      d.core.length = c.core.length → False) (h : slotsCounted s) : slotsCounted (addSlot n c s) := by
  rw [slotsCounted_iff] at h ⊢
  obtain ⟨counted, distinct⟩ := h
  refine ⟨fun r => ?_, fun i j x y hx hy req adr len => ?_⟩
  · rw [slotCount_addSlot empty, addSlot_req, ← counted r]
    by_cases hr : r = c.core.requester
    · simp [hr]
    · simp [hr, Ne.symm hr]
  · rw [addSlot_slot] at hx hy
    split_ifs at hx hy with hi hj hj
    · exact hi.trans hj.symm
    · cases hx; exact (fresh j y hy req.symm adr.symm len.symm).elim
    · cases hy; exact (fresh i x hx req adr len).elim
    · exact distinct i j x y hx hy req adr len

theorem slotsCounted_removeSlot {n : SlotId} {c : Slot} {s : State} (held : s.slot n = some c) (h : slotsCounted s) :
    slotsCounted (removeSlot n c s) := by
  rw [slotsCounted_iff] at h ⊢
  obtain ⟨counted, distinct⟩ := h
  refine ⟨fun r => ?_, fun i j x y hx hy => ?_⟩
  · have fewer := slotCount_removeSlot held (·.core.requester == r)
    rw [removeSlot_req]
    by_cases hr : r = c.core.requester
    · simp only [hr, beq_self_eq_true, if_true] at fewer ⊢
      rw [counted, ← fewer, Nat.add_sub_cancel]
    · simp only [hr, Ne.symm hr, beq_iff_eq, if_false] at fewer ⊢
      rw [counted, ← fewer, Nat.add_zero]
  · rw [removeSlot_slot] at hx hy
    split_ifs at hx hy
    exact distinct i j x y hx hy

theorem Change.keeps_slots (s t : State) (change : Change .command s t) (h : slotsCounted s) : slotsCounted t := by
  cases change with
  | slots v stays => exact slotsCounted_of_stays stays (fun _ => rfl) h
  | timers =>
    refine slotsCounted_of_stays (s := s) (fun n => ?_) (fun _ => rfl) h
    cases hc : s.slot n with
    | none => simpa [SlotStays, lowerTimers, State.slot] using hc
    | some c =>
      have lowered : (lowerTimers s).slot n = some { c with timer := c.timer.map (· - 1) } := by
        simp only [State.slot] at hc
        simp [lowerTimers, State.slot, hc]
      exact ⟨_, lowered, ⟨rfl, rfl, rfl, rfl, rfl, rfl, id⟩⟩
  | leaving e =>
    refine slotsCounted_congr (s := s) (lowerInFlight_slots _ _) (fun r => ?_) h
    rw [removeEntry_req]
    split_ifs
    · exact Requester.markAt_openSlots _ _
    · rfl
  | take e =>
    refine slotsCounted_congr (s := s) (raiseInFlight_slots _ _) (fun r => ?_) h
    rw [createEntry_req]
    split_ifs <;> rfl
  | opening n c empty fresh => exact slotsCounted_addSlot empty fresh h
  | freeing n c held => exact slotsCounted_removeSlot held h
  | loss r => exact slotsCounted_setReq rfl h
  | req r q counts => exact slotsCounted_setReq counts.slots h
  | post p => exact slotsCounted_of_same (post_slots p s) (post_requesters p s) h
  | softReset => exact slotsCounted_of_empty (softReset_slot s) (softReset_req s)
  | hardReset => exact slotsCounted_of_empty reset_slot reset_req
  | touch i => exact slotsCounted_of_same (touch_slots i s) (touch_requesters i s) h
  | _ => exact slotsCounted_of_same rfl rfl h

/-! ### In-flight counts (R5, R12) -/

/-- The law of in-flight counts for one aperture record and the number attributed to it. -/
def Aperture.counts (a : Aperture) (n : Nat) : Prop := a.inFlight = n ∧ (a.state = .free ∨ a.state = .loading → n = 0)

theorem inFlightCounted_iff (s : State) : inFlightCounted s ↔ ∀ k, (s.ap k).counts (attributedTo k s) := Iff.rfl

/-- A record that keeps its count and that has not gone to FREE or LOADING. -/
structure ApCounts (a b : Aperture) : Prop where
  inFlight : b.inFlight = a.inFlight
  state : b.state = .free ∨ b.state = .loading → a.state = .free ∨ a.state = .loading

theorem ApCounts.refl (a : Aperture) : ApCounts a a := ⟨rfl, id⟩

theorem ApCounts.counts {a b : Aperture} {n : Nat} (same : ApCounts a b) (h : a.counts n) : b.counts n :=
  ⟨same.inFlight.trans h.1, fun hb => h.2 (same.state hb)⟩

theorem ApKeeps.counts {a b : Aperture} (h : ApKeeps a b) : ApCounts a b := by
  obtain ⟨w, state, -⟩ := h
  exact ⟨w.inFlight, state ▸ id⟩

theorem ApSettles.counts {a b : Aperture} (h : ApSettles a b) : ApCounts a b := by
  obtain ⟨w, -, active, -⟩ := h
  exact ⟨w.inFlight, by simp [active]⟩

theorem ApMoves.counts {a b : Aperture} (h : ApMoves a b) : ApCounts a b := by
  obtain ⟨w, ⟨-, state, -⟩ | ⟨-, state, -⟩ | ⟨-, state, -⟩ | ⟨-, state, -⟩⟩ := h <;>
    exact ⟨w.inFlight, by simp [state]⟩

/-- The same number of owners is attributed to each aperture. -/
theorem inFlightCounted_congr {s t : State} (attributed : ∀ k, attributedTo k t = attributedTo k s)
    (records : ∀ k, ApCounts (s.ap k) (t.ap k)) (h : inFlightCounted s) : inFlightCounted t :=
  fun k => by rw [attributed]; exact (records k).counts (h k)

theorem attributedTo_congr {s t : State} (entries : t.postQueue = s.postQueue) (slots : t.slots = s.slots) (k : ApId) :
    attributedTo k t = attributedTo k s := by
  simp only [attributedTo_eq, entries]
  exact congrArg _ (slotCount_congr fun n => by rw [slot_congr slots])

theorem inFlightCounted_of_same {s t : State} (entries : t.postQueue = s.postQueue) (slots : t.slots = s.slots)
    (apertures : t.apertures = s.apertures) (h : inFlightCounted s) : inFlightCounted t :=
  inFlightCounted_congr (attributedTo_congr entries slots) (fun k => ap_congr apertures k ▸ ApCounts.refl _) h

/-- One record is replaced by one that counts the same owners. -/
theorem inFlightCounted_setAp {k : ApId} {a : Aperture} {s : State} (counts : a.counts (attributedTo k s))
    (h : inFlightCounted s) : inFlightCounted (setAp k a s) := by
  intro j
  rw [attributedTo_congr (s := s) (t := setAp k a s) rfl rfl, setAp_ap]
  split_ifs with hj
  · exact hj ▸ counts
  · exact h j

/-- An aperture to which nothing is attributed may enter FREE. -/
theorem inFlightCounted_enterFree {k : ApId} {s : State} (none_left : attributedTo k s = 0) (h : inFlightCounted s) :
    inFlightCounted (enterFree k s) :=
  inFlightCounted_of_same (s := updAp k Aperture.freed s) rfl rfl rfl
    (inFlightCounted_setAp ⟨none_left.symm, fun _ => none_left⟩ h)

theorem attributedTo_of_no_owners {s : State} (entries : s.postQueue = []) (slots : ∀ n, s.slot n = none) (k : ApId) :
    attributedTo k s = 0 := by
  rw [attributedTo_eq, entries, slotCount_of_empty slots]; rfl

theorem inFlightCounted_of_no_owners {s : State} (entries : s.postQueue = []) (slots : ∀ n, s.slot n = none)
    (apertures : ∀ k, s.ap k = {}) : inFlightCounted s := by
  intro k
  rw [attributedTo_of_no_owners entries slots, apertures]
  exact ⟨rfl, fun _ => rfl⟩

theorem OwnerCore.attributed_iff (c : OwnerCore) (k : ApId) :
    c.attributed k = true ↔ ∃ x, c.place = some x ∧ x.aperture = k := by
  simp [OwnerCore.attributed]

theorem raiseInFlight_ap (p : Option Place) (k : ApId) (s : State) :
    (raiseInFlight p s).ap k =
      { s.ap k with inFlight := (s.ap k).inFlight + if (p.map (·.aperture)) = some k then 1 else 0 } := by
  cases p with
  | none => simp [raiseInFlight]
  | some x =>
    simp only [raiseInFlight, updAp_ap, Option.map_some, Option.some.injEq, eq_comm (a := k)]
    split_ifs with hk
    · rw [hk]
    · rfl

theorem lowerInFlight_ap (p : Option Place) (k : ApId) (s : State) :
    (lowerInFlight p s).ap k =
      { s.ap k with inFlight := (s.ap k).inFlight - if (p.map (·.aperture)) = some k then 1 else 0 } := by
  cases p with
  | none => simp [lowerInFlight]
  | some x =>
    simp only [lowerInFlight, updAp_ap, Option.map_some, Option.some.injEq, eq_comm (a := k)]
    split_ifs with hk
    · rw [hk]
    · rfl

/-- An owner joins, attributed to an aperture that serves: its count follows. -/
theorem inFlightCounted_of_joined {c : OwnerCore} {s t u : State} (serves : placeServes c.place s)
    (attributed : ∀ k, attributedTo k t = attributedTo k s + if c.attributed k then 1 else 0)
    (records : t = raiseInFlight c.place u) (apertures : u.apertures = s.apertures) (h : inFlightCounted s) :
    inFlightCounted t := by
  intro k
  obtain ⟨count, none_left⟩ := h k
  have place : (c.place.map (·.aperture) = some k) ↔ c.attributed k = true := by simp [OwnerCore.attributed]
  rw [attributed, records, raiseInFlight_ap, ap_congr apertures]
  refine ⟨by simp only [count, place], fun hk => ?_⟩
  have alone : c.attributed k ≠ true := by
    rw [Ne, OwnerCore.attributed_iff]
    rintro ⟨x, hx, rfl⟩
    have := serves x hx
    obtain state | state := hk <;> simp [show (s.ap x.aperture).state = _ from state, ApState.serves] at this
  rw [if_neg alone, none_left hk]

/-- An owner goes: the count of its aperture follows. -/
theorem inFlightCounted_of_gone {c : OwnerCore} {s t u : State}
    (attributed : ∀ k, attributedTo k t + (if c.attributed k then 1 else 0) = attributedTo k s)
    (records : t = lowerInFlight c.place u) (apertures : u.apertures = s.apertures) (h : inFlightCounted s) :
    inFlightCounted t := by
  intro k
  obtain ⟨count, none_left⟩ := h k
  have gone := attributed k
  have place : (c.place.map (·.aperture) = some k) ↔ c.attributed k = true := by simp [OwnerCore.attributed]
  have lowered : t.ap k = { s.ap k with inFlight := (s.ap k).inFlight - if c.attributed k then 1 else 0 } := by
    rw [records, lowerInFlight_ap, ap_congr apertures]; simp only [place]
  rw [lowered]
  refine ⟨?_, fun hk => ?_⟩
  · simp only [count]; omega
  · have := none_left hk
    omega

theorem attributedTo_createEntry (k : ApId) (e : PostEntry) (s : State) :
    attributedTo k (createEntry e s) = attributedTo k s + if e.core.attributed k then 1 else 0 := by
  have slots : slotCount (·.core.attributed k) (createEntry e s) = slotCount (·.core.attributed k) s :=
    slotCount_congr fun n => congrArg (Option.elim · false _) (slot_congr (raiseInFlight_slots _ _) n)
  rw [attributedTo_eq, attributedTo_eq, slots, createEntry_postQueue, List.filter_append, List.length_append]
  cases hk : e.core.attributed k <;> simp [hk]; omega

theorem attributedTo_addSlot {n : SlotId} {c : Slot} {s : State} (empty : s.slot n = none) (k : ApId) :
    attributedTo k (addSlot n c s) = attributedTo k s + if c.core.attributed k then 1 else 0 := by
  rw [attributedTo_eq, attributedTo_eq, slotCount_addSlot empty, addSlot, raiseInFlight_postQueue]
  exact (Nat.add_assoc _ _ _).symm

theorem attributedTo_removeSlot {n : SlotId} {c : Slot} {s : State} (held : s.slot n = some c) (k : ApId) :
    attributedTo k (removeSlot n c s) + (if c.core.attributed k then 1 else 0) = attributedTo k s := by
  rw [attributedTo_eq, attributedTo_eq, ← slotCount_removeSlot held, removeSlot, lowerInFlight_postQueue]
  exact Nat.add_assoc _ _ _

/-- Of a list, the first element that a test picks is the one element that another test drops. -/
theorem length_filter_remove {α : Type} {p q : α → Bool} {e : α} {xs es : List α} (split : xs.filter p = e :: es)
    (first : q e = true) (rest : ∀ x ∈ es, q x = false) (only : ∀ x ∈ xs, q x = true → p x = true) (f : α → Bool) :
    ((xs.filter fun x => !q x).filter f).length + (if f e then 1 else 0) = (xs.filter f).length := by
  have picked : xs.filter q = [e] := by
    have both : xs.filter q = (xs.filter p).filter q := by
      rw [List.filter_filter]
      exact List.filter_congr fun x hx => by
        cases hq : q x with
        | false => simp
        | true => simp [only x hx hq]
    rw [both, split, List.filter_cons_of_pos first,
      List.filter_eq_nil_iff.mpr fun x hx => by simp [rest x hx]]
  have parts : ((xs.filter f).filter q).length + ((xs.filter f).filter fun x => !q x).length = (xs.filter f).length := by
    have := List.length_eq_length_filter_add (l := xs.filter f) q
    omega
  have swap (g : α → Bool) : (xs.filter f).filter g = (xs.filter g).filter f := by
    rw [List.filter_filter, List.filter_filter]
    exact List.filter_congr fun x _ => Bool.and_comm _ _
  rw [swap, picked, swap] at parts
  rw [← parts, Nat.add_comm]
  cases hf : f e <;> simp [hf]

theorem attributedTo_removeEntry {e : PostEntry} {s : State} (first : head e.core.requester s = some e)
    (sequences : sequencesFollow s) (k : ApId) :
    attributedTo k (removeEntry e s) + (if e.core.attributed k then 1 else 0) = attributedTo k s := by
  obtain ⟨es, split⟩ := entriesOfReq_of_head first
  have others := entriesOfReq_remove_head sequences split
  have slots : slotCount (·.core.attributed k) (removeEntry e s) = slotCount (·.core.attributed k) s :=
    slotCount_congr fun n => congrArg (Option.elim · false _) (slot_congr (lowerInFlight_slots _ _) n)
  have rest : ∀ x ∈ es, x.named e.core.requester e.sequence = false := by
    intro x hx
    rw [← others] at hx
    simpa using List.of_mem_filter hx
  have entries := length_filter_remove (q := (·.named e.core.requester e.sequence)) split
    (by simp [PostEntry.named]) rest (fun x _ hx => by simp_all [PostEntry.named]) (·.core.attributed k)
  rw [attributedTo_eq, attributedTo_eq, slots, removeEntry_postQueue, ← entries]
  omega

theorem Change.keeps_inFlight (s t : State) (change : Change .command s t) (sequences : sequencesFollow s)
    (h : inFlightCounted s) : inFlightCounted t := by
  cases change with
  | ap k a same => exact inFlightCounted_setAp ((same.elim ApKeeps.counts ApSettles.counts).counts (h k)) h
  | apMove _ k a moves => exact inFlightCounted_setAp (moves.counts.counts (h k)) h
  | drain k _ none_left => exact inFlightCounted_enterFree ((h k).1 ▸ none_left) h
  | unload _ k loading => exact inFlightCounted_enterFree ((h k).2 (.inr loading)) h
  | load k l free => exact inFlightCounted_setAp ⟨((h k).2 (.inl free)).symm, fun _ => (h k).2 (.inl free)⟩ h
  | rebind k l => exact inFlightCounted_setAp ⟨(h k).1, by simp⟩ h
  | retire k => exact inFlightCounted_setAp ⟨(h k).1, by simp⟩ h
  | access k bs => exact inFlightCounted_setAp (ApCounts.counts ⟨rfl, id⟩ (h k)) h
  | quiesce =>
    refine inFlightCounted_congr (s := s) (attributedTo_congr (s := s) rfl rfl) (fun k => ?_) h
    have quiesced : ApCounts (s.ap k) (s.ap k).quiesce := by
      unfold Aperture.quiesce
      split_ifs
      · exact ⟨rfl, by simp⟩
      · exact ApCounts.refl _
    simpa [State.ap] using quiesced
  | forget =>
    refine inFlightCounted_congr (s := s) (attributedTo_congr (s := s) rfl rfl) (fun k => ?_) h
    simpa [State.ap] using (⟨rfl, id⟩ : ApCounts (s.ap k) { s.ap k with resume := none })
  | entries f keeps =>
    refine inFlightCounted_congr (s := s) (fun k => ?_) (fun k => ApCounts.refl _) h
    have same : ∀ e ∈ s.postQueue, (f e).core.attributed k = e.core.attributed k :=
      fun e he => by simp only [OwnerCore.attributed, (keeps e he).place]
    rw [attributedTo_eq, attributedTo_eq, setPostQueue_postQueue, List.filter_map, List.length_map,
      Function.comp_def, List.filter_congr same]
    rfl
  | slots v stays =>
    refine inFlightCounted_congr (s := s) (fun k => ?_) (fun k => ApCounts.refl _) h
    rw [attributedTo_eq, attributedTo_eq]
    exact congrArg _ (slotCount_congr fun n => SlotStays.elim_eq (stays n) fun c d keeps => by
      simp only [OwnerCore.attributed, keeps.place])
  | timers =>
    refine inFlightCounted_congr (s := s) (fun k => ?_) (fun k => ApCounts.refl _) h
    rw [attributedTo_eq, attributedTo_eq]
    refine congrArg _ (slotCount_congr fun n => ?_)
    simp only [lowerTimers, State.slot, Vector.getElem_map]
    cases s.slots[n.val] <;> rfl
  | leaving e first => exact inFlightCounted_of_gone (attributedTo_removeEntry first sequences) rfl rfl h
  | take e _ _ serves => exact inFlightCounted_of_joined serves (attributedTo_createEntry · e s) rfl rfl h
  | opening n c empty _ serves => exact inFlightCounted_of_joined serves (attributedTo_addSlot empty) rfl rfl h
  | freeing n c held => exact inFlightCounted_of_gone (attributedTo_removeSlot held) rfl rfl h
  | post p => exact inFlightCounted_of_same (post_postQueue p s) (post_slots p s) (post_apertures p s) h
  | softReset =>
    exact inFlightCounted_of_no_owners (post_postQueue _ _) (softReset_slot s) (softReset_ap s)
  | hardReset => exact inFlightCounted_of_no_owners rfl reset_slot reset_ap
  | touch i => exact inFlightCounted_of_same (touch_postQueue i s) (touch_slots i s) (touch_apertures i s) h
  | _ => exact inFlightCounted_of_same rfl rfl rfl h

/-- The three laws of counts. -/
def countsTrue (s : State) : Prop := sequencesFollow s ∧ slotsCounted s ∧ inFlightCounted s

theorem Change.keeps_counts (s t : State) (change : Change .command s t) (h : countsTrue s) : countsTrue t :=
  ⟨change.keeps_sequences s t h.1, change.keeps_slots s t h.2.1, change.keeps_inFlight s t h.1 h.2.2⟩

/-- Settles O59, by cases on the single changes of a step: a count moves only with what it counts, and the sequence
numbers say that a leaving takes one entry alone. -/
theorem stepKeepsCountsTrue : Obligations.StepKeepsCountsTrue :=
  fun _ _ hs h => step_keeps (P := countsTrue) (fun _ _ hu => hu) Change.keeps_counts hs h

end Sys2Proof.Machine
end

section
/-! SUPPORT and CLAIM. Every command answers a next state and leaves the waiting commands (log entry 5); and what the
changes of owners, walks, jobs and tags leave alone while the bridge is not quiescing. -/

namespace Sys2Proof.Machine

/-! ### Every command is carried out -/

theorem exec_next (i : Instr) (s : State) : ∃ t, exec i s = .next t := by
  cases i <;> exact ⟨_, rfl⟩

theorem Change.keeps_pending (s t : State) (change : Change .command s t) : t.pending = s.pending := by
  cases change with
  | post p => exact post_pending p s
  | softReset => exact post_pending _ _
  | leaving e => exact lowerInFlight_pending _ _
  | take e => exact raiseInFlight_pending _ _
  | opening n c => exact raiseInFlight_pending _ _
  | freeing n c => exact lowerInFlight_pending _ _
  | touch i => exact touch_pending i s
  | _ => rfl

/-- Settles O2: every meaning is a next state, and no single change takes or adds a waiting command. -/
theorem everyCommandIsCarriedOut : Obligations.EveryCommandIsCarriedOut := by
  intro i s
  obtain ⟨t, run⟩ := exec_next i s
  refine ⟨t, run, ?_⟩
  exact (exec_changes i s t run).keep (P := fun u => u.pending = s.pending)
    (fun u v change hu => (change.keeps_pending u v).trans hu) rfl

/-! ### What stands through an event's changes -/

/-- What the changes of an event leave of a requester record (R91, R129). -/
structure ReqStands (p q : Requester) : Prop where
  enabled : q.enabled = p.enabled
  confined : q.confined = p.confined
  postedLimit : q.postedLimit = p.postedLimit
  slotLimit : q.slotLimit = p.slotLimit
  mode : q.readFailureMode = p.readFailureMode
  taken : q.taken = p.taken
  openSlots : q.openSlots = p.openSlots

theorem ReqStands.refl (p : Requester) : ReqStands p p := ⟨rfl, rfl, rfl, rfl, rfl, rfl, rfl⟩

theorem ReqStands.of_eq {p q : Requester} (h : q = p) : ReqStands p q := h ▸ ReqStands.refl p

theorem ReqStands.trans {p q r : Requester} (h : ReqStands p q) (h' : ReqStands q r) : ReqStands p r :=
  ⟨h'.enabled.trans h.enabled, h'.confined.trans h.confined, h'.postedLimit.trans h.postedLimit,
    h'.slotLimit.trans h.slotLimit, h'.mode.trans h.mode, h'.taken.trans h.taken, h'.openSlots.trans h.openSlots⟩

theorem Requester.markAt_stands (q : Requester) (seq : Seq) : ReqStands q (q.markAt seq) := by
  unfold Requester.markAt
  split
  · split_ifs <;> exact ⟨rfl, rfl, rfl, rfl, rfl, rfl, rfl⟩
  · exact ReqStands.refl q

theorem SlotStays.of_eq {x y : Option Slot} (h : y = x) : SlotStays x y := h ▸ SlotStays.refl x

theorem SlotKeeps.trans {c d e : Slot} (h : SlotKeeps c d) (h' : SlotKeeps d e) : SlotKeeps c e :=
  ⟨h'.requester.trans h.requester, h'.place.trans h.place, h'.address.trans h.address, h'.length.trans h.length,
    h'.age.trans h.age, h'.fence.trans h.fence, fun met => h'.met (h.met met)⟩

theorem SlotStays.trans {x y z : Option Slot} (h : SlotStays x y) (h' : SlotStays y z) : SlotStays x z := by
  cases x with
  | none => cases h; exact h'
  | some c =>
    obtain ⟨d, rfl, keeps⟩ := h
    obtain ⟨e, rfl, keeps'⟩ := h'
    exact ⟨e, rfl, keeps.trans keeps'⟩

/-- What stands through the changes of owners, walks, jobs and tags. -/
structure Stands (s t : State) : Prop where
  pending : t.pending = s.pending
  resetLow : t.resetLow = s.resetLow
  tickCounter : t.tickCounter = s.tickCounter
  settings : t.settings = s.settings
  quiescing : t.quiescing = s.quiescing
  response : t.response = s.response
  bus : t.out.bus = s.out.bus
  requesters : ∀ r, ReqStands (s.req r) (t.req r)
  slots : ∀ n, SlotStays (s.slot n) (t.slot n)

theorem Stands.refl (s : State) : Stands s s :=
  ⟨rfl, rfl, rfl, rfl, rfl, rfl, rfl, fun _ => ReqStands.refl _, fun _ => SlotStays.refl _⟩

theorem Stands.trans {s t u : State} (h : Stands s t) (h' : Stands t u) : Stands s u :=
  ⟨h'.pending.trans h.pending, h'.resetLow.trans h.resetLow, h'.tickCounter.trans h.tickCounter,
    h'.settings.trans h.settings, h'.quiescing.trans h.quiescing, h'.response.trans h.response, h'.bus.trans h.bus,
    fun r => (h.requesters r).trans (h'.requesters r), fun n => (h.slots n).trans (h'.slots n)⟩

/-- One change of an event: only the soft reset would move what stands, and it waits for quiescing. -/
theorem Change.stands {s t : State} (change : Change .event s t) (going : s.quiescing = false) : Stands s t := by
  have same := Stands.refl s
  cases change with
  | slots v stays => exact { same with slots := stays }
  | leaving e =>
    have requesters (r : ReqId) : ReqStands (s.req r) ((removeEntry e s).req r) := by
      rw [removeEntry_req]
      split_ifs
      · obtain ⟨enabled, confined, posted, slot, mode, taken, slots⟩ := (s.req r).markAt_stands e.sequence
        exact ⟨enabled, confined, posted, slot, mode, taken, slots⟩
      · exact ReqStands.refl _
    exact ⟨lowerInFlight_pending _ _, lowerInFlight_resetLow _ _, lowerInFlight_tickCounter _ _,
      lowerInFlight_settings _ _, lowerInFlight_quiescing _ _, lowerInFlight_response _ _,
      congrArg Outputs.bus (lowerInFlight_out _ _), requesters,
      fun n => SlotStays.of_eq (slot_congr (lowerInFlight_slots _ _) n)⟩
  | loss r =>
    refine { same with requesters := fun p => ?_ }
    rw [updReq_req]
    split_ifs with hp
    · subst hp; exact ⟨rfl, rfl, rfl, rfl, rfl, rfl, rfl⟩
    · exact ReqStands.refl _
  | post p =>
    exact ⟨post_pending p s, post_resetLow p s, post_tickCounter p s, post_settings p s, post_quiescing p s,
      post_response p s, congrArg Outputs.bus (post_out p s), fun r => ReqStands.of_eq (post_req p s r),
      fun n => SlotStays.of_eq (post_slot p s n)⟩
  | softReset _ quiescing => exact absurd quiescing (by simp [going])
  | touch i =>
    exact ⟨touch_pending i s, touch_resetLow i s, touch_tickCounter i s, touch_settings i s, touch_quiescing i s,
      touch_response i s, congrArg Outputs.bus (touch_out i s),
      fun r => ReqStands.of_eq (req_congr (touch_requesters i s) r),
      fun n => SlotStays.of_eq (slot_congr (touch_slots i s) n)⟩
  | _ => exact ⟨rfl, rfl, rfl, rfl, rfl, rfl, rfl, fun _ => ReqStands.refl _, fun _ => SlotStays.refl _⟩

theorem Changes.stands {s t : State} (changes : Changes .event s t) (going : s.quiescing = false) : Stands s t := by
  induction changes with
  | refl => exact Stands.refl s
  | tail _ change ih => exact ih.trans (change.stands (ih.quiescing.trans going))

theorem event_ne_owner : Level.event ≠ Level.owner := by decide

end Sys2Proof.Machine
end

section
/-! SUPPORT and CLAIM. The freeing of a slot (R111), and the two events that free one alone: a READ that a READY or FAILED
slot answers (R110) and the expiry of a discard timer (R119). -/

namespace Sys2Proof.Machine

open Sys2Proof.Claims

/-! ### What the tests of settling and draining leave -/

section
variable (k : ApId) (s : State)

@[simp] theorem settleTest_pending : (settleTest k s).pending = s.pending := by unfold settleTest; split <;> simp
@[simp] theorem settleTest_resetLow : (settleTest k s).resetLow = s.resetLow := by unfold settleTest; split <;> simp
@[simp] theorem settleTest_tickCounter : (settleTest k s).tickCounter = s.tickCounter := by unfold settleTest; split <;> simp
@[simp] theorem settleTest_jobs : (settleTest k s).jobs = s.jobs := by unfold settleTest; split <;> simp
@[simp] theorem settleTest_validation : (settleTest k s).validation = s.validation := by unfold settleTest; split <;> simp
@[simp] theorem settleTest_missQueue : (settleTest k s).missQueue = s.missQueue := by unfold settleTest; split <;> simp
@[simp] theorem settleTest_unqueued : (settleTest k s).unqueued = s.unqueued := by unfold settleTest; split <;> simp
@[simp] theorem settleTest_postQueue : (settleTest k s).postQueue = s.postQueue := by unfold settleTest; split <;> simp
@[simp] theorem settleTest_slots : (settleTest k s).slots = s.slots := by unfold settleTest; split <;> simp
@[simp] theorem settleTest_requesters : (settleTest k s).requesters = s.requesters := by unfold settleTest; split <;> simp
@[simp] theorem settleTest_tags : (settleTest k s).tags = s.tags := by unfold settleTest; split <;> simp
@[simp] theorem settleTest_parked : (settleTest k s).parked = s.parked := by unfold settleTest; split <;> simp
@[simp] theorem settleTest_lastGrant : (settleTest k s).lastGrant = s.lastGrant := by unfold settleTest; split <;> simp
@[simp] theorem settleTest_settings : (settleTest k s).settings = s.settings := by unfold settleTest; split <;> simp
@[simp] theorem settleTest_quiescing : (settleTest k s).quiescing = s.quiescing := by unfold settleTest; split <;> simp
@[simp] theorem settleTest_response : (settleTest k s).response = s.response := by unfold settleTest; split <;> simp
@[simp] theorem settleTest_out : (settleTest k s).out = s.out := by unfold settleTest; split <;> simp
@[simp] theorem settleTest_nextAge : (settleTest k s).nextAge = s.nextAge := by unfold settleTest; split <;> simp
@[simp] theorem settleTest_choices : (settleTest k s).choices = s.choices := by unfold settleTest; split <;> simp
@[simp] theorem settleTest_checkpoints : (settleTest k s).checkpoints = s.checkpoints := by unfold settleTest; split <;> simp
@[simp] theorem settleTest_cache : (settleTest k s).cache = s.cache := by unfold settleTest; split <;> simp

end

section
variable (m : Bool) (p : Option Place) (s : State)

@[simp] theorem uncountIf_pending : (uncountIf m p s).pending = s.pending := by cases p <;> cases m <;> simp [uncountIf, uncount]
@[simp] theorem uncountIf_resetLow : (uncountIf m p s).resetLow = s.resetLow := by cases p <;> cases m <;> simp [uncountIf, uncount]
@[simp] theorem uncountIf_tickCounter : (uncountIf m p s).tickCounter = s.tickCounter := by cases p <;> cases m <;> simp [uncountIf, uncount]
@[simp] theorem uncountIf_jobs : (uncountIf m p s).jobs = s.jobs := by cases p <;> cases m <;> simp [uncountIf, uncount]
@[simp] theorem uncountIf_validation : (uncountIf m p s).validation = s.validation := by cases p <;> cases m <;> simp [uncountIf, uncount]
@[simp] theorem uncountIf_missQueue : (uncountIf m p s).missQueue = s.missQueue := by cases p <;> cases m <;> simp [uncountIf, uncount]
@[simp] theorem uncountIf_unqueued : (uncountIf m p s).unqueued = s.unqueued := by cases p <;> cases m <;> simp [uncountIf, uncount]
@[simp] theorem uncountIf_postQueue : (uncountIf m p s).postQueue = s.postQueue := by cases p <;> cases m <;> simp [uncountIf, uncount]
@[simp] theorem uncountIf_slots : (uncountIf m p s).slots = s.slots := by cases p <;> cases m <;> simp [uncountIf, uncount]
@[simp] theorem uncountIf_requesters : (uncountIf m p s).requesters = s.requesters := by cases p <;> cases m <;> simp [uncountIf, uncount]
@[simp] theorem uncountIf_tags : (uncountIf m p s).tags = s.tags := by cases p <;> cases m <;> simp [uncountIf, uncount]
@[simp] theorem uncountIf_parked : (uncountIf m p s).parked = s.parked := by cases p <;> cases m <;> simp [uncountIf, uncount]
@[simp] theorem uncountIf_lastGrant : (uncountIf m p s).lastGrant = s.lastGrant := by cases p <;> cases m <;> simp [uncountIf, uncount]
@[simp] theorem uncountIf_settings : (uncountIf m p s).settings = s.settings := by cases p <;> cases m <;> simp [uncountIf, uncount]
@[simp] theorem uncountIf_quiescing : (uncountIf m p s).quiescing = s.quiescing := by cases p <;> cases m <;> simp [uncountIf, uncount]
@[simp] theorem uncountIf_response : (uncountIf m p s).response = s.response := by cases p <;> cases m <;> simp [uncountIf, uncount]
@[simp] theorem uncountIf_out : (uncountIf m p s).out = s.out := by cases p <;> cases m <;> simp [uncountIf, uncount]
@[simp] theorem uncountIf_nextAge : (uncountIf m p s).nextAge = s.nextAge := by cases p <;> cases m <;> simp [uncountIf, uncount]
@[simp] theorem uncountIf_choices : (uncountIf m p s).choices = s.choices := by cases p <;> cases m <;> simp [uncountIf, uncount]
@[simp] theorem uncountIf_checkpoints : (uncountIf m p s).checkpoints = s.checkpoints := by cases p <;> cases m <;> simp [uncountIf, uncount]
@[simp] theorem uncountIf_cache : (uncountIf m p s).cache = s.cache := by cases p <;> cases m <;> simp [uncountIf, uncount]

end

section
variable (k : ApId) (s : State)

@[simp] theorem drainTest_pending : (drainTest k s).pending = s.pending := by unfold drainTest; split <;> simp
@[simp] theorem drainTest_resetLow : (drainTest k s).resetLow = s.resetLow := by unfold drainTest; split <;> simp
@[simp] theorem drainTest_tickCounter : (drainTest k s).tickCounter = s.tickCounter := by unfold drainTest; split <;> simp
@[simp] theorem drainTest_jobs : (drainTest k s).jobs = s.jobs := by unfold drainTest; split <;> simp
@[simp] theorem drainTest_validation : (drainTest k s).validation = s.validation := by unfold drainTest; split <;> simp
@[simp] theorem drainTest_missQueue : (drainTest k s).missQueue = s.missQueue := by unfold drainTest; split <;> simp
@[simp] theorem drainTest_unqueued : (drainTest k s).unqueued = s.unqueued := by unfold drainTest; split <;> simp
@[simp] theorem drainTest_postQueue : (drainTest k s).postQueue = s.postQueue := by unfold drainTest; split <;> simp
@[simp] theorem drainTest_slots : (drainTest k s).slots = s.slots := by unfold drainTest; split <;> simp
@[simp] theorem drainTest_requesters : (drainTest k s).requesters = s.requesters := by unfold drainTest; split <;> simp
@[simp] theorem drainTest_tags : (drainTest k s).tags = s.tags := by unfold drainTest; split <;> simp
@[simp] theorem drainTest_parked : (drainTest k s).parked = s.parked := by unfold drainTest; split <;> simp
@[simp] theorem drainTest_lastGrant : (drainTest k s).lastGrant = s.lastGrant := by unfold drainTest; split <;> simp
@[simp] theorem drainTest_settings : (drainTest k s).settings = s.settings := by unfold drainTest; split <;> simp
@[simp] theorem drainTest_quiescing : (drainTest k s).quiescing = s.quiescing := by unfold drainTest; split <;> simp
@[simp] theorem drainTest_response : (drainTest k s).response = s.response := by unfold drainTest; split <;> simp
@[simp] theorem drainTest_out : (drainTest k s).out = s.out := by unfold drainTest; split <;> simp
@[simp] theorem drainTest_nextAge : (drainTest k s).nextAge = s.nextAge := by unfold drainTest; split <;> simp
@[simp] theorem drainTest_choices : (drainTest k s).choices = s.choices := by unfold drainTest; split <;> simp

end

section
variable (p : Option Place) (s : State)

@[simp] theorem drainTestOf_pending : (drainTestOf p s).pending = s.pending := by cases p <;> simp [drainTestOf]
@[simp] theorem drainTestOf_resetLow : (drainTestOf p s).resetLow = s.resetLow := by cases p <;> simp [drainTestOf]
@[simp] theorem drainTestOf_tickCounter : (drainTestOf p s).tickCounter = s.tickCounter := by cases p <;> simp [drainTestOf]
@[simp] theorem drainTestOf_jobs : (drainTestOf p s).jobs = s.jobs := by cases p <;> simp [drainTestOf]
@[simp] theorem drainTestOf_validation : (drainTestOf p s).validation = s.validation := by cases p <;> simp [drainTestOf]
@[simp] theorem drainTestOf_missQueue : (drainTestOf p s).missQueue = s.missQueue := by cases p <;> simp [drainTestOf]
@[simp] theorem drainTestOf_unqueued : (drainTestOf p s).unqueued = s.unqueued := by cases p <;> simp [drainTestOf]
@[simp] theorem drainTestOf_postQueue : (drainTestOf p s).postQueue = s.postQueue := by cases p <;> simp [drainTestOf]
@[simp] theorem drainTestOf_slots : (drainTestOf p s).slots = s.slots := by cases p <;> simp [drainTestOf]
@[simp] theorem drainTestOf_requesters : (drainTestOf p s).requesters = s.requesters := by cases p <;> simp [drainTestOf]
@[simp] theorem drainTestOf_tags : (drainTestOf p s).tags = s.tags := by cases p <;> simp [drainTestOf]
@[simp] theorem drainTestOf_parked : (drainTestOf p s).parked = s.parked := by cases p <;> simp [drainTestOf]
@[simp] theorem drainTestOf_lastGrant : (drainTestOf p s).lastGrant = s.lastGrant := by cases p <;> simp [drainTestOf]
@[simp] theorem drainTestOf_settings : (drainTestOf p s).settings = s.settings := by cases p <;> simp [drainTestOf]
@[simp] theorem drainTestOf_quiescing : (drainTestOf p s).quiescing = s.quiescing := by cases p <;> simp [drainTestOf]
@[simp] theorem drainTestOf_response : (drainTestOf p s).response = s.response := by cases p <;> simp [drainTestOf]
@[simp] theorem drainTestOf_out : (drainTestOf p s).out = s.out := by cases p <;> simp [drainTestOf]
@[simp] theorem drainTestOf_nextAge : (drainTestOf p s).nextAge = s.nextAge := by cases p <;> simp [drainTestOf]
@[simp] theorem drainTestOf_choices : (drainTestOf p s).choices = s.choices := by cases p <;> simp [drainTestOf]

end

theorem settleTest_of_not_settling {k : ApId} {s : State} (h : (s.ap k).state ≠ .rebinding .settling) :
    settleTest k s = s := if_neg (by simp [settled, h])

theorem drainTest_of_not_draining {k : ApId} {s : State} (h : (s.ap k).state ≠ .draining) : drainTest k s = s :=
  if_neg (by simp [drained, h])

theorem settleTest_ap_of_ne {j k : ApId} (ne : j ≠ k) (s : State) : (settleTest k s).ap j = s.ap j := by
  unfold settleTest; split <;> simp [ne]

theorem drainTest_ap_of_ne {j k : ApId} (ne : j ≠ k) (s : State) : (drainTest k s).ap j = s.ap j := by
  unfold drainTest
  split
  · rw [post_ap, enterFree, ap_congr (setPlaces_apertures _ _ _), updAp_ap, if_neg ne,
      ap_congr (invalidateAp_apertures _ _)]
  · rfl

/-- No aperture but the owner's own moves when it is uncounted. -/
theorem uncountIf_ap_of_ne {j : ApId} {p : Option Place} (ne : p.map (·.aperture) ≠ some j) (m : Bool) (s : State) :
    (uncountIf m p s).ap j = s.ap j := by
  cases p with
  | none => rfl
  | some x =>
    have beside : j ≠ x.aperture := fun e => ne (congrArg some e.symm)
    simp only [uncountIf]
    split_ifs
    · rw [uncount, settleTest_ap_of_ne beside, updAp_ap, if_neg beside]
    · rfl

theorem drainTestOf_ap_of_ne {j : ApId} {p : Option Place} (ne : p.map (·.aperture) ≠ some j) (s : State) :
    (drainTestOf p s).ap j = s.ap j := by
  cases p with
  | none => rfl
  | some x => exact drainTest_ap_of_ne (fun e => ne (congrArg some e.symm)) s

/-- The settling count of a marked owner's aperture falls, and nothing more. -/
def lowerSettling (m : Bool) (p : Option Place) (s : State) : State :=
  match p with
  | some x => if m then updAp x.aperture (fun a => { a with settling := a.settling - 1 }) s else s
  | none => s

theorem lowerSettling_frame (m : Bool) (p : Option Place) (s : State) :
    (lowerSettling m p s).reports = s.reports ∧ (lowerSettling m p s).dropped = s.dropped := by
  cases p <;> cases m <;> exact ⟨rfl, rfl⟩

theorem lowerSettling_ap (m : Bool) (p : Option Place) (k : ApId) (s : State) :
    (lowerSettling m p s).ap k = if m = true ∧ p.map (·.aperture) = some k
      then { s.ap k with settling := (s.ap k).settling - 1 } else s.ap k := by
  cases p with
  | none => simp [lowerSettling]
  | some x =>
    cases m with
    | false => simp [lowerSettling]
    | true =>
      simp only [lowerSettling, if_true, updAp_ap, Option.map_some, Option.some.injEq, true_and, eq_comm (a := k)]
      split_ifs with hk
      · rw [hk]
      · rfl

theorem lowerSettling_ap_state (m : Bool) (p : Option Place) (k : ApId) (s : State) :
    ((lowerSettling m p s).ap k).state = (s.ap k).state := by rw [lowerSettling_ap]; split_ifs <;> rfl

/-- Uncounting an owner whose aperture is not SETTLING lowers the settling count alone. -/
theorem uncountIf_of_not_settling {p : Option Place} {s : State}
    (h : ∀ x, p = some x → (s.ap x.aperture).state ≠ .rebinding .settling) (m : Bool) :
    uncountIf m p s = lowerSettling m p s := by
  cases p with
  | none => rfl
  | some x =>
    simp only [uncountIf, uncount, lowerSettling]
    rw [settleTest_of_not_settling]
    simpa using h x rfl

theorem drainTestOf_of_not_draining {p : Option Place} {s : State}
    (h : ∀ x, p = some x → (s.ap x.aperture).state ≠ .draining) : drainTestOf p s = s := by
  cases p with
  | none => rfl
  | some x => exact drainTest_of_not_draining (h x rfl)

/-! ### Cancelling under a tag -/

theorem TagState.cancel_of_picked {p : OpName → Bool} {op : Op} {o : OpName} (owner : op.owner = some o)
    (picked : p o = true) (g : Bool) :
    (TagState.outstanding op).cancel p g =
      .outstanding { op with cancelled := true, owner := if g then none else op.owner } := by
  simp [TagState.cancel, owner, picked]

/-- A tag whose operation no test picks keeps its state. -/
theorem TagState.cancel_of_not_picked {p : OpName → Bool} {x : TagState}
    (h : ∀ op o, x = .outstanding op → op.owner = some o → p o = false) (g : Bool) : x.cancel p g = x := by
  cases x with
  | free => rfl
  | quarantined f => rfl
  | outstanding op =>
    refine if_neg ?_
    cases owner : op.owner with
    | none => simp
    | some o => simp [h op o rfl owner]

theorem pieceOf_iff (o : OwnerRef) (x : OpName) : pieceOf o x = true ↔ ∃ i, x = .piece o i := by
  cases x <;> simp [pieceOf]

theorem pieceOf_false {o : OwnerRef} {x : OpName} (h : ∀ i, x ≠ .piece o i) : pieceOf o x = false := by
  rw [← Bool.not_eq_true, pieceOf_iff]
  exact fun ⟨i, e⟩ => h i e

/-! ### Freeing (R111) -/

/-- A slot's owner with nothing waiting on its translation and none of its operations left (R58, R152). -/
def released (n : SlotId) (s : State) : State := cancelOps (pieceOf (.slot n)) true (detach (.slot n) s)

theorem freeSlot_eq {n : SlotId} {c : Slot} {s : State} (held : s.slot n = some c) :
    freeSlot n s =
      drainTestOf c.core.place (uncountIf c.core.settlingMark c.core.place (removeSlot n c (released n s))) := by
  simp only [freeSlot, held, removeSlot, released]

theorem removeSlot_frame (n : SlotId) (c : Slot) (s : State) :
    removeSlot n c s = { s with
      slots := (removeSlot n c s).slots, requesters := (removeSlot n c s).requesters
      apertures := (removeSlot n c s).apertures } := by
  unfold removeSlot lowerInFlight
  split <;> rfl

theorem removeSlot_ap (n : SlotId) (c : Slot) (k : ApId) (s : State) :
    (removeSlot n c s).ap k = { s.ap k with
      inFlight := (s.ap k).inFlight - if (c.core.place.map (·.aperture)) = some k then 1 else 0 } := by
  rw [removeSlot, lowerInFlight_ap]; rfl

/-- With no aperture that a freeing could take out of draining or settling, the two tests do nothing. -/
theorem freeSlot_of_calm {n : SlotId} {c : Slot} {s : State} (held : s.slot n = some c)
    (calm : ∀ x, c.core.place = some x → (s.ap x.aperture).state ≠ .draining ∧
      (s.ap x.aperture).state ≠ .rebinding .settling) :
    freeSlot n s = lowerSettling c.core.settlingMark c.core.place (removeSlot n c (released n s)) := by
  have still (k : ApId) : ((removeSlot n c (released n s)).ap k).state = (s.ap k).state := by rw [removeSlot_ap]; rfl
  rw [freeSlot_eq held, uncountIf_of_not_settling fun x hx => by rw [still]; exact (calm x hx).2]
  exact drainTestOf_of_not_draining fun x hx => by rw [lowerSettling_ap_state, still]; exact (calm x hx).1

theorem freeSlot_freed {n : SlotId} {c : Slot} {s : State} (held : s.slot n = some c) : Freed n c s (freeSlot n s) := by
  have same : Untouched s (removeSlot n c (released n s)) := by rw [removeSlot_frame]; constructor <;> rfl
  have detached : (removeSlot n c (released n s)).missQueue = (detach (.slot n) s).missQueue ∧
      (removeSlot n c (released n s)).unqueued = (detach (.slot n) s).unqueued := by
    rw [removeSlot_frame]; exact ⟨rfl, rfl⟩
  have slot (m : SlotId) : (freeSlot n s).slot m = if m = n then none else s.slot m := by
    rw [freeSlot_eq held, slot_congr (drainTestOf_slots _ _), slot_congr (uncountIf_slots _ _ _), removeSlot_slot]
    rfl
  have tag (u : TagId) : (freeSlot n s).tag u = (s.tag u).cancel (pieceOf (.slot n)) true := by
    rw [freeSlot_eq held, tag_congr (drainTestOf_tags _ _), tag_congr (uncountIf_tags _ _ _), removeSlot_frame]
    exact cancelOps_tag _ _ _ _
  have parked : (freeSlot n s).parked = s.parked.filter fun p => !(p.op.owner.elim false (pieceOf (.slot n))) := by
    rw [freeSlot_eq held, drainTestOf_parked, uncountIf_parked, removeSlot_frame]
    rfl
  have record (k : ApId) := removeSlot_ap n c k (released n s)
  refine {
    slot := by rw [slot, if_pos rfl], others := fun m hm => by rw [slot, if_neg hm], requester := fun r => ?requester,
    entries := ?entries, untouched := ?untouched, detached := ?detached, abandoned := fun u op i hu owner => ?abandoned,
    tags := fun u alone => ?tags, parked := fun p => ?parked, unplaced := fun k off => ?unplaced,
    active := fun x place active => ?active, quiet := fun calm => ?quiet }
  case requester =>
    rw [freeSlot_eq held, req_congr (drainTestOf_requesters _ _), req_congr (uncountIf_requesters _ _ _),
      removeSlot_req]
    rfl
  case entries => rw [freeSlot_eq held, drainTestOf_postQueue, uncountIf_postQueue, removeSlot_frame]; rfl
  case untouched =>
    rw [freeSlot_eq held]
    constructor <;> simp only [drainTestOf_settings, drainTestOf_response, drainTestOf_jobs, drainTestOf_validation,
      drainTestOf_tickCounter, drainTestOf_pending, drainTestOf_resetLow, drainTestOf_quiescing, uncountIf_settings,
      uncountIf_response, uncountIf_jobs, uncountIf_validation, uncountIf_tickCounter, uncountIf_pending,
      uncountIf_resetLow, uncountIf_quiescing, same.settings, same.response, same.jobs, same.validation,
      same.tickCounter, same.pending, same.resetLow, same.quiescing]
  case detached =>
    rw [freeSlot_eq held, drainTestOf_missQueue, uncountIf_missQueue, drainTestOf_unqueued, uncountIf_unqueued,
      detached.1, detached.2]
    refine ⟨fun w hw x hx => ?_, fun u hu => by simpa using List.of_mem_filter hu⟩
    obtain ⟨w', -, rfl⟩ := List.mem_map.mp (List.mem_of_mem_filter hw)
    simpa using List.of_mem_filter hx
  case abandoned => rw [tag, hu, TagState.cancel_of_picked owner ((pieceOf_iff _ _).mpr ⟨i, rfl⟩)]; rfl
  case tags =>
    rw [tag]
    refine TagState.cancel_of_not_picked (fun op o hx owner => pieceOf_false fun i e => ?_) true
    exact alone op i hx (e ▸ owner)
  case parked =>
    rw [parked, List.mem_filter]
    refine and_congr_right fun _ => ?_
    cases owner : p.op.owner with
    | none => simp
    | some o =>
      rw [Option.elim_some, Bool.not_eq_true', ← Bool.not_eq_true, pieceOf_iff]
      simp
  case unplaced =>
    rw [freeSlot_eq held, drainTestOf_ap_of_ne off, uncountIf_ap_of_ne off, record, if_neg off]
    rfl
  case active =>
    have calm : ∀ y, c.core.place = some y → (s.ap y.aperture).state ≠ .draining ∧
        (s.ap y.aperture).state ≠ .rebinding .settling := by
      rintro y hy; cases place.symm.trans hy; simp [active]
    have at_place : c.core.place.map (·.aperture) = some x.aperture := by rw [place]; rfl
    rw [freeSlot_of_calm held calm, lowerSettling_ap, removeSlot_ap, if_pos at_place]
    cases c.core.settlingMark <;> simp only [at_place, Bool.false_eq_true, if_true, if_false, true_and, false_and] <;> rfl
  case quiet =>
    rw [freeSlot_of_calm held calm, (lowerSettling_frame _ _ _).1, (lowerSettling_frame _ _ _).2, removeSlot_frame]
    exact ⟨rfl, rfl⟩

/-- What the ports drove stands at a freeing. -/
theorem freeSlot_out (n : SlotId) (s : State) : (freeSlot n s).out = s.out := by
  cases held : s.slot n with
  | none => simp only [freeSlot, held]
  | some c => rw [freeSlot_eq held, drainTestOf_out, uncountIf_out, removeSlot_frame]; rfl

/-- A state that differs in what the ports drove alone frees a slot alike. -/
theorem Freed.of_out {n : SlotId} {c : Slot} {s t : State} {o : Outputs} (h : Freed n c { s with out := o } t) :
    Freed n c s t :=
  { h with untouched := { h.untouched with } }

end Sys2Proof.Machine
end

section
/-! SUPPORT and CLAIM. The initiator port up to the resource check: the decode order of a presentation (R77 to R85), and the
answers of SYNC (R133, R134) and of a matching slot (R110). -/

namespace Sys2Proof.Machine

open Sys2Proof.Claims

/-! ### Answers in a fresh event -/

theorem respond_beginEvent (x : BusResponse) (s : State) : respond x (beginEvent s) = busAnswered x s := rfl

theorem refuse_beginEvent (r : ReqId) (why : RefusalReason) (s : State) :
    refuse r why (beginEvent s) = refusedAt r why s := rfl

theorem exec_write (r : ReqId) (a : Addr) (len : BitVec 7) (lanes : Lanes) (en : BitVec 64) (s : State) :
    exec (.write r a len lanes en) s = .next (writePresented r a len.toNat lanes (beginEvent s)) := rfl

theorem exec_read (r : ReqId) (a : Addr) (len : BitVec 7) (s : State) :
    exec (.read r a len) s = .next (readPresented r a len.toNat (beginEvent s)) := rfl

theorem exec_sync (r : ReqId) (s : State) : exec (.sync r) s = .next (syncPresented r (beginEvent s)) := rfl

/-! ### Steps 1 and 2 (R77, R78) -/

theorem malformed_iff (a : Addr) (len : Nat) :
    malformed a len = true ↔ len = 0 ∨ 64 < len ∨ 64 < a.toNat % 64 + len := by
  simp only [malformed, linePos, Bool.or_eq_true, beq_iff_eq, decide_eq_true_eq, or_assoc]
  exact or_congr_right (or_congr_right decide_eq_true_iff)

section
variable {r : ReqId} {a : Addr} {len : Nat} {s : State}

theorem writePresented_of_malformed (lanes : Lanes) (up : s.resetLow = false) (bad : malformed a len = true) :
    writePresented r a len lanes (beginEvent s) = refusedAt r .malformed s := by
  rw [← refuse_beginEvent]; simp [writePresented, up, bad]

theorem readPresented_of_malformed (up : s.resetLow = false) (bad : malformed a len = true) :
    readPresented r a len (beginEvent s) = refusedAt r .malformed s := by
  rw [← refuse_beginEvent]; simp [readPresented, up, bad]

theorem writePresented_of_disabled (lanes : Lanes) (up : s.resetLow = false) (formed : malformed a len = false)
    (disabled : (s.req r).enabled = false) : writePresented r a len lanes (beginEvent s) = refusedAt r .disabled s := by
  have disabled' : ((beginEvent s).req r).enabled = false := disabled
  rw [← refuse_beginEvent]; simp [writePresented, up, formed, disabled']

theorem readPresented_of_disabled (up : s.resetLow = false) (formed : malformed a len = false)
    (disabled : (s.req r).enabled = false) : readPresented r a len (beginEvent s) = refusedAt r .disabled s := by
  have disabled' : ((beginEvent s).req r).enabled = false := disabled
  rw [← refuse_beginEvent]; simp [readPresented, up, formed, disabled']

theorem syncPresented_of_disabled (up : s.resetLow = false) (disabled : (s.req r).enabled = false) :
    syncPresented r (beginEvent s) = refusedAt r .disabled s := by
  have disabled' : ((beginEvent s).req r).enabled = false := disabled
  rw [← refuse_beginEvent]; simp [syncPresented, up, disabled']

end

/-- Settles O8, along steps 1 and 2 of the decode order. -/
theorem malformedAndDisabledAreRefused : Obligations.MalformedAndDisabledAreRefused := by
  intro r a len lanes en s up
  refine ⟨?unassigned, fun bad => ?malformed, fun disabled => ⟨?sync, fun some_bytes in_line => ?disabled⟩⟩
  case unassigned => exact congrArg _ (if_neg (by simp [up]))
  case malformed =>
    rw [← malformed_iff] at bad
    exact ⟨congrArg _ (writePresented_of_malformed lanes up bad), congrArg _ (readPresented_of_malformed up bad)⟩
  case sync => exact congrArg _ (syncPresented_of_disabled up disabled)
  case disabled =>
    have formed : malformed a len.toNat = false := by
      rw [← Bool.not_eq_true, malformed_iff]; omega
    exact ⟨congrArg _ (writePresented_of_disabled lanes up formed disabled),
      congrArg _ (readPresented_of_disabled up formed disabled)⟩

/-! ### Step 3 and the slots (R79, R110) -/

theorem matchingSlot_eq_none {r : ReqId} {a : Addr} {len : Nat} {s : State} (h : Unmatched r a len s) :
    matchingSlot r a len s = none := by
  refine List.find?_eq_none.mpr fun n _ matched => ?_
  cases held : s.slot n with
  | none => simp [held] at matched
  | some c =>
    refine h n c held ?_
    simpa [held, Slot.matchesKey, and_assoc] using matched

/-- Match keys are distinct, so the slot that carries one is the slot found. -/
theorem matchingSlot_eq_some {n : SlotId} {c : Slot} {s : State} (distinct : keysDistinct s) (held : s.slot n = some c) :
    matchingSlot c.core.requester c.core.address c.core.length s = some n := by
  have picked : (s.slot n).elim false (·.matchesKey c.core.requester c.core.address c.core.length) = true := by
    simp [held, Slot.matchesKey]
  cases found : matchingSlot c.core.requester c.core.address c.core.length s with
  | none => exact absurd picked (by simpa using List.find?_eq_none.mp found n (List.mem_finRange n))
  | some m =>
    have matched := List.find?_some found
    cases other : s.slot m with
    | none => simp [other] at matched
    | some d =>
      simp only [other, Option.elim_some, Slot.matchesKey, Bool.and_eq_true, beq_iff_eq] at matched
      obtain ⟨⟨req, adr⟩, len⟩ := matched
      rw [distinct m n d c other held req adr len]

section
variable {r : ReqId} {a : Addr} {len : Nat} {s : State}

theorem readPresented_of_matched {n : SlotId} (passes : Passes r a len s) (matched : matchingSlot r a len s = some n) :
    readPresented r a len (beginEvent s) = answerFromSlot n (beginEvent s) := by
  have enabled : ((beginEvent s).req r).enabled = true := passes.enabled
  have found : matchingSlot r a len (beginEvent s) = some n := matched
  simp [readPresented, passes.up, passes.formed, enabled, found]

/-! ### Steps 3 to 6 by what decode comes to -/

theorem writePresented_of_retry (lanes : Lanes) (passes : Passes r a len s) (h : decode true r a len s = .retry) :
    writePresented r a len lanes (beginEvent s) = retried s := by
  have enabled : ((beginEvent s).req r).enabled = true := passes.enabled
  have decoded : decode true r a len (beginEvent s) = .retry := h
  simp only [writePresented, beginEvent_resetLow, passes.up, passes.formed, enabled, decoded, Bool.not_true,
    Bool.false_eq_true, if_false]
  rfl

theorem writePresented_of_refused {why : RefusalReason} (lanes : Lanes) (passes : Passes r a len s)
    (h : decode true r a len s = .refused why) : writePresented r a len lanes (beginEvent s) = refusedAt r why s := by
  have enabled : ((beginEvent s).req r).enabled = true := passes.enabled
  have decoded : decode true r a len (beginEvent s) = .refused why := h
  simp only [writePresented, beginEvent_resetLow, passes.up, passes.formed, enabled, decoded, Bool.not_true,
    Bool.false_eq_true, if_false]
  rfl

theorem readPresented_of_retry (passes : Passes r a len s) (unmatched : Unmatched r a len s)
    (h : decode false r a len s = .retry) : readPresented r a len (beginEvent s) = retried s := by
  have enabled : ((beginEvent s).req r).enabled = true := passes.enabled
  have decoded : decode false r a len (beginEvent s) = .retry := h
  have fresh : matchingSlot r a len (beginEvent s) = none := matchingSlot_eq_none unmatched
  simp only [readPresented, beginEvent_resetLow, passes.up, passes.formed, enabled, fresh, decoded, Bool.not_true,
    Bool.false_eq_true, if_false]
  rfl

theorem readPresented_of_refused {why : RefusalReason} (passes : Passes r a len s) (unmatched : Unmatched r a len s)
    (h : decode false r a len s = .refused why) : readPresented r a len (beginEvent s) = refusedAt r why s := by
  have enabled : ((beginEvent s).req r).enabled = true := passes.enabled
  have decoded : decode false r a len (beginEvent s) = .refused why := h
  have fresh : matchingSlot r a len (beginEvent s) = none := matchingSlot_eq_none unmatched
  simp only [readPresented, beginEvent_resetLow, passes.up, passes.formed, enabled, fresh, decoded, Bool.not_true,
    Bool.false_eq_true, if_false]
  rfl

end

/-- The path that decode comes to (R80 to R83). -/
def pathOf (p : Option Place) : Decoded := p.elim .pass .translated

theorem writePresented_of_path {r : ReqId} {a : Addr} {len : Nat} {s : State} {p : Option Place} (lanes : Lanes)
    (passes : Passes r a len s) (h : decode true r a len s = pathOf p) :
    writePresented r a len lanes (beginEvent s) =
      writeDecoded r a len (bytesOfLanes a len lanes) p (beginEvent s) := by
  have enabled : ((beginEvent s).req r).enabled = true := passes.enabled
  have decoded : decode true r a len (beginEvent s) = pathOf p := h
  simp only [writePresented, beginEvent_resetLow, passes.up, passes.formed, enabled, decoded, Bool.not_true,
    Bool.false_eq_true, if_false]
  cases p <;> rfl

theorem readPresented_of_path {r : ReqId} {a : Addr} {len : Nat} {s : State} {p : Option Place}
    (passes : Passes r a len s) (unmatched : Unmatched r a len s) (h : decode false r a len s = pathOf p) :
    readPresented r a len (beginEvent s) = readDecoded r a len p (beginEvent s) := by
  have enabled : ((beginEvent s).req r).enabled = true := passes.enabled
  have decoded : decode false r a len (beginEvent s) = pathOf p := h
  have fresh : matchingSlot r a len (beginEvent s) = none := matchingSlot_eq_none unmatched
  simp only [readPresented, beginEvent_resetLow, passes.up, passes.formed, enabled, fresh, decoded, Bool.not_true,
    Bool.false_eq_true, if_false]
  cases p <;> rfl

/-! ### Windows (R2, R80, R83) -/

theorem inside_iff (a : Addr) (k : ApId) (s : State) :
    Inside a k s ↔ ((s.ap k).claims && (s.ap k).holds a) = true := by
  simp [Inside, Aperture.claims, Aperture.holds]

/-- Claimed windows share no address, so the window that holds one is the window found. -/
theorem claimant_of_inside {a : Addr} {k : ApId} {s : State} (disjoint : windowsDisjoint s) (inside : Inside a k s) :
    claimant a s = some k := by
  cases found : claimant a s with
  | none =>
    have := List.find?_eq_none.mp found k (List.mem_finRange k)
    exact absurd ((inside_iff a k s).mp inside) this
  | some j =>
    have inside_j : Inside a j s := (inside_iff a j s).mpr
      (List.find?_some (p := fun k => (s.ap k).claims && (s.ap k).holds a) found)
    by_contra ne
    obtain ⟨claims, low, high⟩ := inside
    obtain ⟨claims_j, low_j, high_j⟩ := inside_j
    have := disjoint j k (fun e => ne (congrArg some e)) (by simpa [Aperture.claims] using claims_j)
      (by simpa [Aperture.claims] using claims)
    omega

theorem claimant_of_outside {a : Addr} {s : State} (outside : Outside a s) : claimant a s = none :=
  List.find?_eq_none.mpr fun k _ h => outside k ((inside_iff a k s).mpr h)

theorem permitted_iff (write : Bool) (r : ReqId) (x : Aperture) :
    Permitted write r x ↔ (x.mask.getLsbD r.val && x.allows write) = true := by
  simp [Permitted, Aperture.allows]

section
variable {write : Bool} {r : ReqId} {a : Addr} {len : Nat} {k : ApId} {s : State}

theorem decode_of_quiescing (quiescing : s.quiescing = true) : decode write r a len s = .retry := by
  simp [decode, quiescing]

theorem decode_of_outside (going : s.quiescing = false) (outside : Outside a s) :
    decode write r a len s = if (s.req r).confined then .refused .outside else .pass := by
  simp only [decode, going, claimant_of_outside outside, Bool.false_eq_true, if_false]

theorem decode_of_loading (going : s.quiescing = false) (claims : claimant a s = some k)
    (state : (s.ap k).state = .loading) : decode write r a len s = .retry := by
  simp only [decode, going, claims, state, Bool.false_eq_true, if_false]

theorem decode_of_draining (going : s.quiescing = false) (claims : claimant a s = some k)
    (state : (s.ap k).state = .draining) : decode write r a len s = .refused .closing := by
  simp only [decode, going, claims, state, Bool.false_eq_true, if_false]

theorem decode_of_faulted (going : s.quiescing = false) (claims : claimant a s = some k)
    (state : (s.ap k).state = .faulted) : decode write r a len s = .refused .faulted := by
  simp only [decode, going, claims, state, Bool.false_eq_true, if_false]

/-- ACTIVE and REBINDING apertures alike go on to mask, rights and mapped length (R81, R82). -/
theorem decode_of_serving (going : s.quiescing = false) (claims : claimant a s = some k)
    (serves : (s.ap k).state.serves = true) :
    decode write r a len s = decodeServed write r (a.toNat - (s.ap k).windowBase.toNat) len k (s.ap k) := by
  simp only [decode, going, claims, Bool.false_eq_true, if_false]
  cases state : (s.ap k).state <;> simp_all [ApState.serves]

end

theorem ApState.serves_iff (x : ApState) : x.serves = true ↔ x = .active ∨ ∃ p, x = .rebinding p := by
  cases x <;> simp [ApState.serves]

theorem decodeServed_of_not_permitted {write : Bool} {r : ReqId} {x : Aperture} (off len : Nat) (k : ApId)
    (h : ¬Permitted write r x) : decodeServed write r off len k x = .refused .notPermitted := by
  rw [permitted_iff, Bool.not_eq_true] at h
  simp only [decodeServed, h, Bool.not_false, if_true]

theorem decodeServed_of_permitted {write : Bool} {r : ReqId} {x : Aperture} (off len : Nat) (k : ApId)
    (h : Permitted write r x) : decodeServed write r off len k x =
      if x.mappedLength < off + len then .refused .beyondMap else .translated { aperture := k, offset := off } := by
  rw [permitted_iff] at h
  simp only [decodeServed, h, Bool.not_true, Bool.false_eq_true, if_false]

/-- Settles O9, by the claimed window's state (R80), then by mask and rights (R81) and the mapped length (R82). -/
theorem theWindowDecides : Obligations.TheWindowDecides := by
  intro r a len lanes en s passes going disjoint unmatched
  have refused (why : RefusalReason) (h : ∀ w, decode w r a len.toNat s = .refused why) :
      exec (.write r a len lanes en) s = .next (refusedAt r why s) ∧
        exec (.read r a len) s = .next (refusedAt r why s) :=
    ⟨congrArg _ (writePresented_of_refused lanes passes (h true)),
      congrArg _ (readPresented_of_refused passes unmatched (h false))⟩
  refine ⟨fun k inside => ?window, fun outside confined => ?outside⟩
  case outside => exact refused .outside fun w => by rw [decode_of_outside going outside, if_pos confined]
  case window =>
    have claims := claimant_of_inside disjoint inside
    refine ⟨fun state => ?loading, fun state => refused _ fun _ => decode_of_draining going claims state,
      fun state => refused _ fun _ => decode_of_faulted going claims state, fun state => ?serving⟩
    case loading =>
      exact ⟨congrArg _ (writePresented_of_retry lanes passes (decode_of_loading going claims state)),
        congrArg _ (readPresented_of_retry passes unmatched (decode_of_loading going claims state))⟩
    case serving =>
      have served (w : Bool) := decode_of_serving (write := w) (r := r) (len := len.toNat) going claims
        ((ApState.serves_iff _).mpr state)
      have written {why} (h : decode true r a len.toNat s = .refused why) :=
        congrArg (Host.Outcome.next (φ := Fault) (ρ := Refusal)) (writePresented_of_refused lanes passes h)
      have read {why} (h : decode false r a len.toNat s = .refused why) :=
        congrArg (Host.Outcome.next (φ := Fault) (ρ := Refusal)) (readPresented_of_refused passes unmatched h)
      refine ⟨fun no => written ?_, fun no => read ?_, fun past => ⟨fun yes => written ?_, fun yes => read ?_⟩⟩
      · rw [served, decodeServed_of_not_permitted _ _ _ no]
      · rw [served, decodeServed_of_not_permitted _ _ _ no]
      · rw [served, decodeServed_of_permitted _ _ _ yes, if_pos past]
      · rw [served, decodeServed_of_permitted _ _ _ yes, if_pos past]

/-! ### Admission and room (R84, R85) -/

theorem decode_of_admitted {write : Bool} {r : ReqId} {a : Addr} {len : Nat} {p : Option Place} {s : State}
    (admitted : Admitted write r a len p s) : decode write r a len s = pathOf p := by
  obtain ⟨-, going, disjoint, course⟩ := admitted
  cases p with
  | none =>
    obtain ⟨outside, free⟩ := course
    rw [decode_of_outside going outside, free]; rfl
  | some x =>
    obtain ⟨inside, serves, permitted, offset, mapped⟩ := course
    rw [decode_of_serving going (claimant_of_inside disjoint inside) serves,
      decodeServed_of_permitted _ _ _ permitted, ← offset, if_neg (Nat.not_lt.mpr mapped)]
    rfl

theorem writeRoom_iff (r : ReqId) (s : State) : writeRoom r s = true ↔ WriteRoom r s := by
  simp [writeRoom, WriteRoom]

theorem exec_write_of_admitted {r : ReqId} {a : Addr} {len : BitVec 7} {p : Option Place} {s : State} (lanes : Lanes)
    (en : BitVec 64) (admitted : Admitted true r a len.toNat p s) :
    exec (.write r a len lanes en) s =
      .next (writeDecoded r a len.toNat (bytesOfLanes a len.toNat lanes) p (beginEvent s)) :=
  congrArg _ (writePresented_of_path lanes admitted.passes (decode_of_admitted admitted))

theorem exec_read_of_admitted {r : ReqId} {a : Addr} {len : BitVec 7} {p : Option Place} {s : State}
    (admitted : Admitted false r a len.toNat p s) (unmatched : Unmatched r a len.toNat s) :
    exec (.read r a len) s = .next (readDecoded r a len.toNat p (beginEvent s)) :=
  congrArg _ (readPresented_of_path admitted.passes unmatched (decode_of_admitted admitted))

theorem readDecoded_of_no_room {r : ReqId} {s : State} (a : Addr) (len : Nat) (p : Option Place)
    (full : ¬ReadRoom r s) : readDecoded r a len p (beginEvent s) = retried s := by
  unfold readDecoded
  split
  · next n found =>
    have empty : s.slot n = none :=
      Option.isNone_iff_eq_none.mp (List.find?_some (p := fun n => (s.slot n).isNone) found)
    have limit : ¬(s.req r).openSlots < (s.req r).slotLimit := fun room => full ⟨⟨n, empty⟩, room⟩
    exact if_neg limit
  · rfl

/-- Settles O10: while quiescing decode comes to RETRY, and with no room the admitted request does. -/
theorem quiescingAndNoRoomAreRetried : Obligations.QuiescingAndNoRoomAreRetried := by
  intro r a len lanes en p s
  refine ⟨fun up quiescing enabled => ?sync, fun quiescing passes => ⟨?write, fun unmatched => ?read⟩,
    fun admitted full => ?fullQueue, fun admitted unmatched full => ?fullSlots⟩
  case sync =>
    have enabled' : ((beginEvent s).req r).enabled = true := enabled
    have retry : syncPresented r (beginEvent s) = respond busRetry (beginEvent s) := by
      simp [syncPresented, up, quiescing, enabled']
    exact congrArg _ retry
  case write => exact congrArg _ (writePresented_of_retry lanes passes (decode_of_quiescing quiescing))
  case read => exact congrArg _ (readPresented_of_retry passes unmatched (decode_of_quiescing quiescing))
  case fullQueue =>
    have no_room : ¬writeRoom r (beginEvent s) = true := fun room => full ((writeRoom_iff r s).mp room)
    rw [exec_write_of_admitted lanes en admitted, writeDecoded, if_neg no_room]
    rfl
  case fullSlots => rw [exec_read_of_admitted admitted unmatched, readDecoded_of_no_room _ _ _ full]

/-! ### SYNC (R133, R134) -/

theorem syncPresented_of_enabled {r : ReqId} {s : State} (up : s.resetLow = false) (going : s.quiescing = false)
    (enabled : (s.req r).enabled = true) :
    syncPresented r (beginEvent s) =
      setReq r (syncAnswer (s.req r)).2 (busAnswered { code := (syncAnswer (s.req r)).1 } s) := by
  have enabled' : ((beginEvent s).req r).enabled = true := enabled
  have going' : (beginEvent s).quiescing = false := going
  have up' : (beginEvent s).resetLow = false := up
  simp only [syncPresented, up', going', enabled', Bool.not_true, Bool.false_eq_true, if_false]
  rfl

/-- Writing a requester record back as it stands changes nothing. -/
theorem setReq_self (r : ReqId) (s : State) : setReq r (s.req r) s = s := by
  simp [setReq, State.req]

theorem setReq_self_busAnswered (r : ReqId) (x : BusResponse) (s : State) :
    setReq r (s.req r) (busAnswered x s) = busAnswered x s := setReq_self r (busAnswered x s)

/-- Settles O6, along R133: the queued write count, then the loss flag. -/
theorem syncWithoutMark : Obligations.SyncWithoutMark := by
  intro r s up going enabled unmarked
  rw [exec_sync, syncPresented_of_enabled up going enabled]
  refine ⟨fun idle kept => ?_, fun idle lost => ?_, fun queued => ?_⟩
  · have answer : syncAnswer (s.req r) = (.done, s.req r) := by simp [syncAnswer, unmarked, idle, kept]
    rw [answer, setReq_self_busAnswered]
  · have answer : syncAnswer (s.req r) = (.refused .lost, { s.req r with lossFlag := false }) := by
      simp [syncAnswer, unmarked, idle, lost]
    rw [answer]
  · have answer : syncAnswer (s.req r) = (.retry, { s.req r with mark := some ((s.req r).taken, false) }) := by
      simp [syncAnswer, unmarked, Nat.ne_of_gt queued]
    rw [answer]

/-- Settles O7, along R134: whether the mark is reached, then the loss flag. -/
theorem syncWithMark : Obligations.SyncWithMark := by
  intro r m reached s up going enabled marked
  rw [exec_sync, syncPresented_of_enabled up going enabled]
  refine ⟨fun waits => ?_, fun met kept => ?_, fun met lost => ?_⟩
  · have answer : syncAnswer (s.req r) = (.retry, s.req r) := by simp [syncAnswer, marked, waits]
    rw [answer, setReq_self_busAnswered]
  · have answer : syncAnswer (s.req r) = (.done, { s.req r with mark := none }) := by
      simp [syncAnswer, marked, met, kept]
    rw [answer]
  · have answer : syncAnswer (s.req r) = (.refused .lost, { s.req r with lossFlag := false, mark := none }) := by
      simp [syncAnswer, marked, met, lost]
    rw [answer]

/-! ### A matching slot (R110, R111) and the discard timer (R119) -/

theorem answerFromSlot_of_held {n : SlotId} {c : Slot} {s : State} (held : s.slot n = some c) {x : BusResponse}
    {collected : Bool} (h : slotAnswer c (s.req c.core.requester).readFailureMode = (x, collected)) :
    answerFromSlot n (beginEvent s) = if collected then freeSlot n (busAnswered x s) else busAnswered x s := by
  have held' : (beginEvent s).slot n = some c := held
  have h' : slotAnswer c ((beginEvent s).req c.core.requester).readFailureMode = (x, collected) := h
  simp only [answerFromSlot, held', h', respond_beginEvent]

/-- Settles O13: the slot that carries the match key answers by its state, and is freed when collected. -/
theorem aMatchedReadIsAnsweredFromItsSlot : Obligations.AMatchedReadIsAnsweredFromItsSlot := by
  intro n c len s counted held passes length
  rw [slotsCounted_iff] at counted
  have matched : matchingSlot c.core.requester c.core.address len.toNat s = some n :=
    length ▸ matchingSlot_eq_some counted.2 held
  have answered {x : BusResponse} {collected : Bool}
      (h : slotAnswer c (s.req c.core.requester).readFailureMode = (x, collected)) :
      exec (.read c.core.requester c.core.address len) s =
        .next (if collected then freeSlot n (busAnswered x s) else busAnswered x s) := by
    rw [exec_read, readPresented_of_matched passes matched, answerFromSlot_of_held held h]
  refine ⟨fun going => ?progress, fun ended => ?collected⟩
  case progress =>
    have retry : slotAnswer c (s.req c.core.requester).readFailureMode = (busRetry, false) := by
      obtain state | state | state := going <;> simp [slotAnswer, state]
    exact answered retry
  case collected =>
    let x : BusResponse := if c.state = .ready then { code := .data, lanes := lanesOfBytes c.core.address c.data }
      else if (s.req c.core.requester).readFailureMode = .refuse then { code := .refused .failed }
      else { code := .data, poison := true
             lanes := lanesOfBytes c.core.address (List.replicate len.toNat 0xFF) }
    have given : slotAnswer c (s.req c.core.requester).readFailureMode = (x, true) := by
      obtain state | state := ended
      · simp [slotAnswer, x, state]
      · cases mode : (s.req c.core.requester).readFailureMode <;> simp [slotAnswer, x, state, mode, busRefused, length]
    refine ⟨_, answered given, ?_, ?_, ?_⟩
    · rw [if_pos rfl, freeSlot_out]; rfl
    · rw [if_pos rfl, freeSlot_out]; rfl
    · exact Freed.of_out (freeSlot_freed (s := busAnswered x s) held)

theorem post_beginEvent (p : Report) (s : State) : post p (beginEvent s) = { post p s with out := {} } := by
  by_cases room : s.reports.length < 16
  · have room' : (beginEvent s).reports.length < 16 := room
    rw [post, post, if_pos room, if_pos room']; rfl
  · have full : ¬(beginEvent s).reports.length < 16 := room
    rw [post, post, if_neg room, if_neg full]; rfl

theorem discardReport_eq (c : Slot) : discardReport c =
    { kind := .readDiscarded, cause := c.core.failure.map (·.cause), requester := some c.core.requester
      address := some c.core.address, aperture := c.core.place.map (·.aperture)
      windowOffset := c.core.place.map (·.offset)
      generation := c.core.failure.elim c.core.generation (·.generation) } := by
  cases h : c.core.failure <;> simp [discardReport, h]

theorem expireSlot_of_running {n : SlotId} {c : Slot} {s : State} (held : s.slot n = some c)
    (running : c.timer.isSome = true) : expireSlot n s = freeSlot n (post (discardReport c) s) := by
  simp only [expireSlot, held, running, if_true]

theorem expireSlot_of_stopped {n : SlotId} {s : State} (stopped : ∀ c, s.slot n = some c → c.timer = none) :
    expireSlot n s = s := by
  unfold expireSlot
  split
  · next c held => exact if_neg (by simp [stopped c held])
  · rfl

/-- Settles O22: a running timer's expiry posts and frees, and a stopped one never expires. -/
theorem discardExpiryFreesTheSlot : Obligations.DiscardExpiryFreesTheSlot := by
  intro n s
  refine ⟨fun c held running => ?running, fun stopped => ?stopped⟩
  case running =>
    have expiry := expireSlot_of_running (s := beginEvent s) held running
    have held' : (post (discardReport c) (beginEvent s)).slot n = some c := (post_slot _ _ _).trans held
    refine ⟨_, congrArg Host.Outcome.next expiry, ?_, ?_⟩
    · rw [freeSlot_out, post_out]; rfl
    · rw [← discardReport_eq]
      exact Freed.of_out (o := {}) (post_beginEvent (discardReport c) s ▸ freeSlot_freed held')
  case stopped =>
    refine congrArg Host.Outcome.next (expireSlot_of_stopped (s := beginEvent s) fun c held => ?_)
    have held' : s.slot n = some c := held
    obtain empty | ⟨d, occupied, none_running⟩ := stopped
    · rw [empty] at held'; cases held'
    · rw [occupied] at held'; cases held'; exact none_running

end Sys2Proof.Machine
end

section
/-! SUPPORT and CLAIM. The queue of commands, the resets (R26, R148, R173 to R175), a post and an issue (R138, R158, R159),
and the two tests of the aperture table as commands (R17, R23). -/

namespace Sys2Proof.Machine

open Sys2Proof.Claims

/-- An event's outcome is the state that it leaves. -/
theorem next_congr {s t : State} (h : s = t) : (.next s : Host.Outcome State Fault Refusal) = .next t := congrArg _ h

/-- Settles O60, from what each law says of a machine at its reset values. -/
theorem resetMeetsTheInvariants : Obligations.ResetMeetsTheInvariants := by
  have ranks : ranksArePermutation State.reset :=
    ranksArePermutation_of_rank_val fun i => congrArg CacheEntry.rank (reset_cached i)
  obtain ⟨windows, pending⟩ := apertureLaws_of_free reset_ap
  obtain ⟨queues, settings⟩ := (bounded_iff _).mp bounded_reset
  exact ⟨ranks, windows, queues, settings, opsInClass_of_no_ops reset_tag rfl, sequencesFollow_of_empty rfl reset_req,
    slotsCounted_of_empty reset_slot reset_req, inFlightCounted_of_no_owners rfl reset_slot reset_ap, pending⟩

/-- Settles O3, record by record. -/
theorem resetValues : Obligations.ResetValues := by
  refine ⟨fun k => ?_, fun k i => ?_, fun i => ?_, reset_slot, fun r => ?_, reset_tag, ?_⟩
  · rw [reset_ap]; exact ⟨rfl, rfl, rfl, rfl, rfl, rfl, rfl, rfl, rfl, rfl, rfl, rfl, rfl, rfl, rfl, rfl, rfl⟩
  · simp [State.reset, State.places]
  · rw [reset_cached]; exact ⟨rfl, rfl, rfl, rfl, rfl, rfl, rfl, rfl, rfl⟩
  · rw [reset_req]; exact ⟨rfl, rfl, rfl, rfl, rfl, rfl, rfl, rfl, rfl, rfl, rfl, rfl⟩
  · exact ⟨rfl, rfl, rfl, rfl, rfl, rfl, rfl, rfl, rfl, rfl, rfl, rfl, rfl, rfl, rfl, rfl⟩

/-! ### A step -/

theorem step_of_pending (i : Instr) (rest : List Instr) (s : State) :
    step { s with pending := i :: rest } = exec i { s with pending := rest } := rfl

theorem step_of_none_pending {s : State} (idle : s.pending = []) : step s = .next (clockCycle s) := by
  rw [step, idle]

theorem clockCycle_of_low {s : State} (low : s.resetLow = true) : clockCycle s = unmoved s := if_pos low

theorem clockCycle_of_up {s : State} (up : s.resetLow = false) :
    clockCycle s = if s.tickCounter < 1023 then { unmoved s with tickCounter := s.tickCounter + 1 }
      else produceTick (beginEvent s) := if_neg (by simp [up])

theorem exec_tick_of_up {s : State} (up : s.resetLow = false) : exec .tick s = .next (produceTick (beginEvent s)) :=
  next_congr (if_neg (by simp [up]))

/-- Settles O1, by the queue of commands and the tick counter. -/
theorem stepRunsTheFrontCommand : Obligations.StepRunsTheFrontCommand := by
  refine ⟨step_of_pending, fun s idle => ?_⟩
  rw [step_of_none_pending idle]
  refine ⟨fun low => ?_, fun up below => ?_, fun up full => ?_⟩
  · rw [clockCycle_of_low low]
  · rw [clockCycle_of_up up, if_pos below]
  · rw [clockCycle_of_up up, if_neg (Nat.not_lt.mpr full), exec_tick_of_up up]

/-! ### Posting and issuing -/

/-- An issue moves the tags and what the port drives. -/
theorem issue_frame (t : TagId) (op : Op) (s : State) : { issue t op s with tags := s.tags, out := s.out } = s := rfl

/-- Settles O17, by the rules of a post and of an issue. -/
theorem postsAndIssuesAreWhatTheyAre : Obligations.PostsAndIssuesAreWhatTheyAre := by
  refine ⟨fun p s => ⟨post_of_room p, post_of_full p⟩, fun t op s => ⟨?_, fun u ne => ?_, rfl, issue_frame t op s⟩⟩
  · rw [issue_tag, if_pos rfl]
  · rw [issue_tag, if_neg ne]

/-! ### While RESETn is low (R88, R148, R175) -/

section
variable {s : State} (low : s.resetLow = true)
include low

theorem takeCommand_of_low (code : Byte) (n : Nat) (gated : Bool) (args : List Byte) (body : State → State) :
    takeCommand code n gated args body (beginEvent s) = unmoved s := if_pos low

theorem rejectFrame_of_low (n : Nat) (code : Byte) (a : Answer) : rejectFrame n code a (beginEvent s) = unmoved s :=
  if_pos low

theorem fetchFrame_of_low (len crc : Byte) (clocks : Nat) : fetchFrame len crc clocks (beginEvent s) = unmoved s :=
  if_pos low

theorem shortFetch_of_low (n : Nat) : shortFetch n (beginEvent s) = unmoved s := if_pos low

theorem commandByCode_of_low (code : Byte) (args : List Byte) : commandByCode code args (beginEvent s) = unmoved s := by
  simp only [commandByCode, identFrame, getStatusFrame, setGlobalFrame, setRequesterFrame, getRequesterFrame, loadFrame,
    rebindFrame, retireFrame, setAccessFrame, queryFrame, invalidateFrame, popReportFrame, resetFrame,
    takeCommand_of_low low, rejectFrame_of_low low, ite_self]

theorem completeFrame_of_low (code : Byte) (args : List Byte) (crc : Byte) :
    completeFrame code args crc (beginEvent s) = unmoved s := by
  unfold completeFrame
  split
  · exact commandByCode_of_low low code args
  · exact rejectFrame_of_low low _ _ _

theorem takeBytes_of_low (bytes : List Byte) : takeBytes bytes (beginEvent s) = unmoved s := by
  unfold takeBytes
  split
  · rfl
  · split
    · exact shortFetch_of_low low 1
    · exact rejectFrame_of_low low _ _ _
  · split
    · split
      · exact shortFetch_of_low low 2
      · exact fetchFrame_of_low low _ _ _
    · split
      · exact rejectFrame_of_low low _ _ _
      · exact completeFrame_of_low low _ _ _

end

/-- Settles O4: each port tests RESETn first. -/
theorem nothingIsTakenWhileResetIsLow : Obligations.NothingIsTakenWhileResetIsLow := by
  intro s low
  have retry (x : State) : (if (beginEvent s).resetLow = true then respond busRetry (beginEvent s) else x) = retried s :=
    if_pos low
  refine ⟨fun r a len lanes en => next_congr (retry _), fun r a len => next_congr (retry _),
    fun r => ⟨next_congr (retry _), next_congr (retry _)⟩, fun args i row => ?frame,
    fun len crc clocks => next_congr (fetchFrame_of_low low len crc clocks),
    fun bs => next_congr (takeBytes_of_low low bs), fun v args => ?unknown, fun v args crc => ?bad,
    next_congr (if_pos low)⟩
  case frame =>
    simp only [List.mem_cons, List.not_mem_nil, or_false] at row
    rcases row with rfl | rfl | rfl | rfl | rfl | rfl | rfl | rfl | rfl | rfl | rfl | rfl | rfl
    all_goals exact next_congr (takeCommand_of_low low _ _ _ _ _)
  case unknown =>
    refine next_congr ?_
    split
    · exact fetchFrame_of_low low _ _ _
    · exact completeFrame_of_low low _ _ _
  case bad =>
    refine next_congr ?_
    split
    · exact fetchFrame_of_low low _ _ _
    · exact completeFrame_of_low low _ _ _

/-! ### The resets (R174, R175) -/

theorem isOutstanding_iff (x : TagState) : x.isOutstanding = true ↔ ∃ op, x = .outstanding op := by
  cases x <;> simp [TagState.isOutstanding]

theorem resetDue_iff (s : State) :
    resetDue s = true ↔ s.quiescing = true ∧ s.postQueue = [] ∧ ∀ t op, s.tag t ≠ .outstanding op := by
  simp [resetDue, allTags, isOutstanding_iff, ← Bool.not_eq_true, and_assoc]

theorem softReset_eq (s : State) : softReset s = { State.reset with
    reports := [{ kind := .resetDone }]
    pending := s.pending, response := s.response, tickCounter := s.tickCounter, resetLow := s.resetLow
    out := s.out, nextAge := s.nextAge, choices := s.choices } := post_of_nil _ rfl

theorem softResetTest_of_due {s : State} (due : resetDue s = true) : softResetTest s = softReset s := if_pos due

theorem softResetTest_of_not_due {s : State} (h : resetDue s = false) : softResetTest s = s := if_neg (by simp [h])

/-- Settles O5, each reset by its own condition. -/
theorem resetsSetEveryBlock : Obligations.ResetsSetEveryBlock := by
  intro s
  refine ⟨rfl, fun low => next_congr (if_pos low), fun up => next_congr (if_neg (by simp [up])),
    fun quiescing empty ended => next_congr ?_, fun lacking => next_congr ?_⟩
  · have due : resetDue (beginEvent s) = true := (resetDue_iff _).mpr ⟨quiescing, empty, ended⟩
    rw [softResetTest_of_due due, softReset_eq]
    rfl
  · refine softResetTest_of_not_due (s := beginEvent s) ?_
    rw [← Bool.not_eq_true, resetDue_iff]
    rintro ⟨quiescing, empty, ended⟩
    obtain going | queued | ⟨t, op, outstanding⟩ := lacking
    · exact absurd quiescing (by simp [going])
    · exact queued empty
    · exact ended t op outstanding

/-! ### The end of draining and of settling (R17, R23) -/

theorem walkRunning_eq_false_iff (k : ApId) (s : State) :
    walkRunning k s = false ↔ ∀ w ∈ s.missQueue, w.walk.isSome = true → w.aperture ≠ k := by
  simp [walkRunning]

theorem drained_iff (k : ApId) (s : State) : drained k s = true ↔
    (s.ap k).state = .draining ∧ (s.ap k).inFlight = 0 ∧ ∀ w ∈ s.missQueue, w.walk.isSome = true → w.aperture ≠ k := by
  simp [drained, ← walkRunning_eq_false_iff, and_assoc]

theorem settled_iff (k : ApId) (s : State) :
    settled k s = true ↔ (s.ap k).state = .rebinding .settling ∧ (s.ap k).settling = 0 := by
  simp [settled]

theorem drainTest_of_drained {k : ApId} {s : State} (h : drained k s = true) :
    drainTest k s = post { kind := .retireDone, aperture := some k, generation := some (s.ap k).generation }
      (enterFree k (invalidateAp k s)) := if_pos h

theorem drainTest_of_not_drained {k : ApId} {s : State} (h : drained k s = false) : drainTest k s = s :=
  if_neg (by simp [h])

theorem settleTest_of_settled {k : ApId} {s : State} (h : settled k s = true) :
    settleTest k s = post { kind := .rebindDone, aperture := some k, generation := some (s.ap k).generation }
      (updAp k (fun a => { a with state := .active }) s) := if_pos h

theorem settleTest_of_not_settled {k : ApId} {s : State} (h : settled k s = false) : settleTest k s = s :=
  if_neg (by simp [h])

theorem invalidateAp_eq (k : ApId) (s : State) : invalidateAp k s =
    { s with cache := s.cache.map fun e => if e.aperture = k then { e with valid := false } else e } := by
  simp only [invalidateAp, invalidateWhere, beq_iff_eq]

/-- Settles O51: each test does its step exactly where its condition stands. -/
theorem drainingAndSettlingEnd : Obligations.DrainingAndSettlingEnd := by
  intro k s
  dsimp only
  rw [← drained_iff, ← settled_iff]
  refine ⟨fun h => next_congr ?_, fun h => next_congr ?_, fun h => next_congr ?_, fun h => next_congr ?_⟩
  · have h' : drained k (beginEvent s) = true := h
    rw [drainTest_of_drained h', invalidateAp_eq]
    rfl
  · exact drainTest_of_not_drained (s := beginEvent s) (Bool.not_eq_true _ ▸ h)
  · exact settleTest_of_settled (s := beginEvent s) h
  · exact settleTest_of_not_settled (s := beginEvent s) (Bool.not_eq_true _ ▸ h)

end Sys2Proof.Machine
end

section
/-! SUPPORT and CLAIM. The management port: the checks of every frame (R165 to R168), and the commands whose effect is on one
record or none: IDENT, GET_STATUS, QUERY, GET_REQUESTER, SET_GLOBAL, SET_ACCESS and INVALIDATE. -/

namespace Sys2Proof.Machine

open Sys2Proof.Claims

/-! ### The checks of every frame -/

/-- A command that the quiescing gate does not hold, or that comes while it is open, reaches its own checks (R168). -/
theorem takeCommand_of_passed {n : Nat} {gated : Bool} {args : List Byte} {s : State} (code : Byte)
    (body : State → State) (up : s.resetLow = false) (size : args.length = n)
    (passed : gated = false ∨ s.quiescing = false) :
    takeCommand code n gated args body (beginEvent s) = body (driveFrame (3 + args.length) (beginEvent s)) := by
  have gate : ¬(gated && (driveFrame (3 + args.length) (beginEvent s)).quiescing) = true := by
    obtain h | h := passed
    · simp [h]
    · simp [driveFrame, h]
  exact (if_neg (by simp [up])).trans ((if_neg (by simp [size])).trans (if_neg gate))

/-- A row of R177 is carried out by `takeCommand` with the row's code, length and gate; one that names a record looks its
first argument up before anything else. -/
def rowTaken (args : List Byte) (f : FrameRow) : Prop :=
  ∃ body : State → State,
    (∀ s, exec f.command s = .next (takeCommand f.code f.size f.gated args body (beginEvent s))) ∧
    (f.named = true → ∃ g, body = withId f.code (byteAt args 0) g)

theorem rowTaken_of_unnamed {args : List Byte} {f : FrameRow} (body : State → State) (unnamed : f.named = false)
    (taken : ∀ s, exec f.command s = .next (takeCommand f.code f.size f.gated args body (beginEvent s))) :
    rowTaken args f := ⟨body, taken, fun named => absurd (unnamed.symm.trans named) Bool.false_ne_true⟩

theorem rowTaken_of_named {args : List Byte} {f : FrameRow} (g : Fin 16 → State → State)
    (taken : ∀ s, exec f.command s =
      .next (takeCommand f.code f.size f.gated args (withId f.code (byteAt args 0) g) (beginEvent s))) :
    rowTaken args f := ⟨_, taken, fun _ => ⟨g, rfl⟩⟩

theorem frameRows_taken (args : List Byte) : ∀ f ∈ frameRows args, rowTaken args f := by
  simp only [frameRows, List.forall_mem_cons, List.not_mem_nil, false_imp_iff, implies_true, and_true]
  exact ⟨rowTaken_of_unnamed _ rfl fun _ => rfl, rowTaken_of_unnamed _ rfl fun _ => rfl,
    rowTaken_of_unnamed _ rfl fun _ => rfl, rowTaken_of_named _ fun _ => rfl, rowTaken_of_named _ fun _ => rfl,
    rowTaken_of_named _ fun _ => rfl, rowTaken_of_named _ fun _ => rfl, rowTaken_of_named _ fun _ => rfl,
    rowTaken_of_named _ fun _ => rfl, rowTaken_of_named _ fun _ => rfl, rowTaken_of_unnamed _ rfl fun _ => rfl,
    rowTaken_of_unnamed _ rfl fun _ => rfl, rowTaken_of_unnamed _ rfl fun _ => rfl⟩

/-! ### Frames that end early and unassigned codes (R165, R166) -/

section
variable {s : State} (up : s.resetLow = false)
include up

theorem rejectFrame_of_up (n : Nat) (code : Byte) (a : Answer) :
    rejectFrame n code a (beginEvent s) =
      { s with response := some { answer := a, command := code }, out := { mgt := List.replicate n 0xFF } } :=
  if_neg (by simp [up])

theorem shortFetch_of_up (n : Nat) :
    shortFetch n (beginEvent s) = { s with out := { mgt := List.replicate n 0xFF } } := if_neg (by simp [up])

/-- A code that no row of R177 has (R166 step 2). -/
theorem commandByCode_of_unassigned {code : Byte} (args : List Byte) (unassigned : assignedCodes.contains code = false) :
    commandByCode code args (beginEvent s) = framed code args .unknownCommand [] s := by
  simp only [assignedCodes, List.contains_cons, Bool.or_eq_false_iff, beq_eq_false_iff_ne] at unassigned
  obtain ⟨-, h1, h2, h3, h4, h5, h6, h7, h8, h9, h10, h11, h12, h13, -⟩ := unassigned
  simp only [commandByCode, h1, h2, h3, h4, h5, h6, h7, h8, h9, h10, h11, h12, h13, if_false]
  exact rejectFrame_beginEvent code args _ up

theorem exec_unknownCommand_of_wf {code : Byte} {args : List Byte} (formed : (Instr.unknownCommand code args).wf = true) :
    exec (.unknownCommand code args) s = .next (framed code args .unknownCommand [] s) := by
  simp only [Instr.wf, Bool.and_eq_true, Bool.not_eq_true'] at formed
  obtain ⟨-, unassigned⟩ := formed
  have noFetch : code ≠ 0x00 := by
    rintro rfl
    exact absurd unassigned (by decide)
  calc exec (.unknownCommand code args) s
      = .next (completeFrame code args (frameCrc code args) (beginEvent s)) := next_congr (if_neg noFetch)
    _ = .next (commandByCode code args (beginEvent s)) := next_congr (if_pos rfl)
    _ = .next (framed code args .unknownCommand [] s) := next_congr (commandByCode_of_unassigned up args unassigned)

omit up in
/-- A frame that ends before its CRC byte and is no FETCH (R166). -/
theorem takeBytes_of_early {code : Byte} {more : List Byte} (early : endsEarly (code :: more) = true)
    (noFetch : code ≠ 0x00) :
    takeBytes (code :: more) (beginEvent s) = rejectFrame (1 + more.length) code .badFrame (beginEvent s) := by
  cases more with
  | nil => exact if_neg noFetch
  | cons n rest =>
    have short : rest.length < n.toNat + 1 := by simpa [endsEarly] using early
    have none_left : rest.drop n.toNat = [] := List.drop_eq_nil_of_le (by omega)
    simp only [takeBytes, if_neg noFetch, none_left, List.length_cons]
    congr 1
    omega

end

/-- Settles O38, along R166's order: the end of the frame, the CRC, the code, then what `takeCommand` checks. -/
theorem framesAreCheckedInOrder : Obligations.FramesAreCheckedInOrder := by
  intro s up
  refine ⟨fun code args crc => exec_badFrame up, fun code args => exec_unknownCommand_of_wf up,
    fun code more formed noFetch => ?early, fun more short => ?fetch, rfl, fun args f row => ?row⟩
  case early =>
    simp only [Instr.wf, Bool.and_eq_true] at formed
    exact next_congr ((takeBytes_of_early formed.2 noFetch).trans (rejectFrame_of_up up _ _ _))
  case fetch =>
    match more, short with
    | [], _ => exact next_congr (shortFetch_of_up up 1)
    | [_], _ => exact next_congr (shortFetch_of_up up 2)
  case row =>
    obtain ⟨body, taken, named⟩ := frameRows_taken args f row
    rw [taken]
    refine ⟨fun size => ?_, fun size gated quiescing => ?_, fun size passed names above => ?_⟩
    · rw [takeCommand_of_length_ne _ _ _ up size]
    · rw [gated, takeCommand_of_quiescing _ _ up size quiescing]
    · obtain ⟨g, rfl⟩ := named names
      rw [takeCommand_of_passed _ _ up size passed, withId_of_gt _ _ _ above, answer_driveFrame_beginEvent]

/-! ### The commands that read (R128, R169, R172) -/

theorem isFree_eq (x : TagState) : x.isFree = (x == .free) := by cases x <;> rfl

theorem tagsInUse_eq (c : TagClass) (s : State) :
    tagsInUse c s = (List.finRange 16).countP fun t => tagClass t == c && s.tag t != .free := by
  simp only [tagsInUse, allTags, isFree_eq, List.countP_eq_length_filter, bne]

/-- A requester or aperture number in a byte spells that number. -/
theorem val_eq_toNat_ofNat (k : Fin 16) : k.val = (BitVec.ofNat 8 k.val).toNat := by
  have := k.isLt
  simp only [BitVec.toNat_ofNat]
  omega

theorem flagBit_zero_byte (b : Bool) : toByte (flagBit 0 b) = if b then 1 else 0 := by cases b <;> rfl

/-- A reading command that names a record answers from that record, and changes nothing else. -/
theorem takeCommand_of_reading {code : Byte} {s : State} (up : s.resetLow = false) (k : Fin 16)
    (result : Fin 16 → State → List Byte) :
    takeCommand code 1 false [BitVec.ofNat 8 k.val]
        (withId code (byteAt [BitVec.ofNat 8 k.val] 0) fun k s => answer code .ok (result k s) s) (beginEvent s) =
      framed code [BitVec.ofNat 8 k.val] .ok
        (result k (driveFrame (3 + [BitVec.ofNat 8 k.val].length) (beginEvent s))) s := by
  rw [takeCommand_of_passed (n := 1) _ _ up rfl (.inl rfl),
    withId_of_val_eq (b := byteAt [BitVec.ofNat 8 k.val] 0) _ _ _ (val_eq_toNat_ofNat k),
    answer_driveFrame_beginEvent]

theorem getStatusFrame_of_up {s : State} (up : s.resetLow = false) (b : Byte) :
    getStatusFrame [b] (beginEvent s) = { framed 0x02 [b] .ok (statusResults s) s with
      dropped := if b.getLsbD 0 then 0 else s.dropped } := by
  rw [getStatusFrame, takeCommand_of_passed (n := 1) _ _ up rfl (.inl rfl)]
  by_cases clear : b.getLsbD 0 = true
  · rw [if_pos clear]; exact if_pos clear
  · rw [if_neg clear]; exact if_neg clear

/-- Settles O40: each of the four answers from the records as they stand. -/
theorem readingCommandsReturnRecords : Obligations.ReadingCommandsReturnRecords := by
  intro b k s up
  refine ⟨?ident, ⟨statusResults s, rfl, ?status, ?_, rfl, rfl, rfl, ?_, ?_, ?_, ?_, ?_⟩, ?query, ?requester⟩
  case ident => exact next_congr (takeCommand_of_passed (n := 0) _ _ up rfl (.inl rfl))
  case status => exact next_congr (getStatusFrame_of_up up b)
  case query => exact next_congr (takeCommand_of_reading up k fun k s => (s.ap k).encode k)
  case requester => exact next_congr (takeCommand_of_reading up k fun k s => (s.req k).encode k)
  · exact congrArg some (flagBit_zero_byte s.quiescing)
  · exact congrArg (some ∘ toByte) (List.countP_eq_length_filter ..).symm
  · exact congrArg (some ∘ toByte) (tagsInUse_eq .walk s)
  · exact congrArg (some ∘ toByte) (tagsInUse_eq .validation s)
  · exact congrArg (some ∘ toByte) (tagsInUse_eq .data s)
  · exact congrArg (some ∘ toByte) (List.countP_eq_length_filter ..).symm

/-! ### SET_GLOBAL (R153, R169) -/

theorem globalArgs_of_bad {b l d n : Byte} (bad : 63 < b.toNat ∨ l = 0 ∨ d = 0 ∨ 1 < n.toNat) :
    globalArgs [b, l, d, n] = none := by
  refine if_pos ?_
  simpa [byteAt, ← BitVec.toNat_inj] using bad

theorem globalArgs_of_good {b l d n : Byte} (good : ¬(63 < b.toNat ∨ l = 0 ∨ d = 0 ∨ 1 < n.toNat)) :
    globalArgs [b, l, d, n] = some
      { retryBudget := b.toNat, responseLimit := l.toNat, discardInterval := d.toNat, attention := decide (n = 1) } := by
  have attention : (n.toNat == 1) = decide (n = 1) := by
    rw [Bool.eq_iff_iff]; simp only [beq_iff_eq, decide_eq_true_eq]; bv_omega
  rw [← attention]
  refine if_neg ?_
  simpa [byteAt, ← BitVec.toNat_inj] using good

theorem attnLow_iff (s : State) :
    s.attnLow = true ↔ s.settings.attention = true ∧ s.reports ≠ [] ∧ s.resetLow = false := by
  simp [State.attnLow, and_assoc]

/-- Settles O42, by R169's test of the four arguments. -/
theorem setGlobalReplacesFourValues : Obligations.SetGlobalReplacesFourValues := by
  refine ⟨fun b l d n s up running => ?_, attnLow_iff⟩
  refine ⟨fun bad => next_congr ?_, fun good => next_congr ?_⟩
  · rw [setGlobalFrame, takeCommand_of_not_quiescing (n := 4) _ _ _ up rfl running]
    simp only [globalArgs_of_bad bad]
    rfl
  · rw [setGlobalFrame, takeCommand_of_not_quiescing (n := 4) _ _ _ up rfl running]
    simp only [globalArgs_of_good good]
    rfl

/-! ### SET_ACCESS and INVALIDATE (R18, R53) -/

theorem field_two (bs : List Byte) (low high : Byte) (i : Nat) (h : (bs.drop i).take 2 = [low, high]) :
    field bs i 2 = low.toNat + 256 * high.toNat := by
  simp [field, h, leNat]

theorem setAccessFrame_of_named {k : ApId} {args : List Byte} {s : State} (up : s.resetLow = false)
    (running : s.quiescing = false) (size : args.length = 4) (named : k.val = (byteAt args 0).toNat) :
    setAccessFrame args (beginEvent s) =
      if (s.ap k).state.serves then setAp k ((s.ap k).setAccess args) (framed 0x13 args .ok [] s)
      else framed 0x13 args .badState [] s := by
  rw [setAccessFrame, takeCommand_of_not_quiescing _ _ _ up size running, withId_of_val_eq _ _ _ named]
  rfl

theorem invalidateFrame_of_named {k : ApId} {b : Byte} {s : State} (up : s.resetLow = false)
    (running : s.quiescing = false) (named : k.val = b.toNat) :
    invalidateFrame [b] (beginEvent s) = setAp k { s.ap k with resume := none }
      { framed 0x15 [b] .ok [] s with
        cache := s.cache.map fun e => if e.aperture = k then { e with valid := false } else e } := by
  have single : b ≠ 0xFF := by
    rintro rfl
    exact absurd k.isLt (by simp [named])
  rw [invalidateFrame, takeCommand_of_not_quiescing (n := 1) _ _ _ up rfl running, if_neg (by exact single),
    withId_of_val_eq (b := byteAt [b] 0) (k := k) _ _ _ named, forget, invalidateAp_eq]
  rfl

/-- Settles O48, by the aperture's state, and by the number that INVALIDATE carries. -/
theorem setAccessAndInvalidate : Obligations.SetAccessAndInvalidate := by
  intro k s up running
  refine ⟨fun rights low high => ⟨fun serves => next_congr ?_, fun no_active no_rebinding => next_congr ?_⟩,
    next_congr (invalidateFrame_of_named up running (val_eq_toNat_ofNat k)), next_congr ?_, fun b lo hi => next_congr ?_⟩
  · rw [setAccessFrame_of_named up running rfl (val_eq_toNat_ofNat k), if_pos ((ApState.serves_iff _).mpr serves),
      ← field_two [BitVec.ofNat 8 k.val, rights, low, high] low high 2 rfl]
    rfl
  · rw [setAccessFrame_of_named up running rfl (val_eq_toNat_ofNat k), if_neg]
    rw [ApState.serves_iff]
    rintro (active | ⟨p, rebinding⟩)
    · exact no_active active
    · exact no_rebinding p rebinding
  · rw [invalidateFrame, takeCommand_of_not_quiescing (n := 1) _ _ _ up rfl running]
    simp [byteAt, forgetAll, invalidateWhere, answerOk, answer, driveFrame, beginEvent, framed]
  · have single : b ≠ 0xFF := by bv_omega
    rw [invalidateFrame, takeCommand_of_not_quiescing (n := 1) _ _ _ up rfl running, if_neg (by exact single),
      withId_of_gt _ _ _ (by show 15 < b.toNat; omega), answer_driveFrame_beginEvent]

end Sys2Proof.Machine
end

section
/-! SUPPORT and CLAIM. The aperture commands LOAD, REBIND and RETIRE: their checks in order (R170 to R172), what the validation
engine leaves alone as it goes on (R28, R31), and RETIRE by the aperture's state (R24). -/

namespace Sys2Proof.Machine

open Sys2Proof.Claims

/-! ### Argument fields -/

theorem leNat_lt (bs : List Byte) : leNat bs < 256 ^ bs.length := by
  induction bs with
  | nil => simp [leNat]
  | cons b bs ih =>
    have := b.isLt
    simp only [leNat, List.foldr_cons, List.length_cons] at ih ⊢
    omega

theorem field_lt (bs : List Byte) (i n : Nat) : field bs i n < 256 ^ n :=
  (leNat_lt _).trans_le (Nat.pow_le_pow_right (by decide) (List.length_take_le _ _))

/-- A field of five bytes spells an address. -/
theorem toNat_address_field (bs : List Byte) (i : Nat) : (BitVec.ofNat 40 (field bs i 5)).toNat = field bs i 5 :=
  (BitVec.toNat_ofNat _ _).trans (Nat.mod_eq_of_lt (field_lt bs i 5))

/-! ### What the validation engine leaves alone -/

/-- A job but for its being WAITING or RUNNING. -/
def Job.key (j : Job) : ApId × Purpose × ListRef := (j.aperture, j.purpose, j.list)

/-- What the validation engine leaves alone as it goes on: all but its record, the tags of its class, its reads in BACKOFF,
what the port drives, and whether its head job runs. -/
structure EngineFrame (s t : State) : Prop where
  apertures : t.apertures = s.apertures
  checkpoints : t.checkpoints = s.checkpoints
  cache : t.cache = s.cache
  missQueue : t.missQueue = s.missQueue
  postQueue : t.postQueue = s.postQueue
  slots : t.slots = s.slots
  requesters : t.requesters = s.requesters
  settings : t.settings = s.settings
  reports : t.reports = s.reports
  response : t.response = s.response
  jobs : t.jobs.map Job.key = s.jobs.map Job.key
  tags : ∀ u, tagClass u ≠ .validation → t.tag u = s.tag u

theorem EngineFrame.refl (s : State) : EngineFrame s s :=
  ⟨rfl, rfl, rfl, rfl, rfl, rfl, rfl, rfl, rfl, rfl, rfl, fun _ _ => rfl⟩

theorem EngineFrame.trans {s t u : State} (h : EngineFrame s t) (h' : EngineFrame t u) : EngineFrame s u :=
  ⟨h'.apertures.trans h.apertures, h'.checkpoints.trans h.checkpoints, h'.cache.trans h.cache,
    h'.missQueue.trans h.missQueue, h'.postQueue.trans h.postQueue, h'.slots.trans h.slots,
    h'.requesters.trans h.requesters, h'.settings.trans h.settings, h'.reports.trans h.reports,
    h'.response.trans h.response, h'.jobs.trans h.jobs, fun v other => (h'.tags v other).trans (h.tags v other)⟩

theorem startJob_frame (s : State) : EngineFrame s (startJob s) := by
  unfold startJob
  split
  · next j js jobs =>
    split
    · exact .refl s
    · exact ⟨rfl, rfl, rfl, rfl, rfl, rfl, rfl, rfl, rfl, rfl, by rw [jobs]; rfl, fun _ _ => rfl⟩
  · exact .refl s

/-- An issue under a validation tag, whatever becomes of the engine's record and of the parked operations. -/
theorem issue_engineFrame {t : TagId} (cls : tagClass t = .validation) (op : Op) (v : Option Validation)
    (ps : List Parked) (s : State) : EngineFrame s (issue t op { s with validation := v, parked := ps }) :=
  ⟨rfl, rfl, rfl, rfl, rfl, rfl, rfl, rfl, rfl, rfl, rfl, fun u other => by
    rw [issue_tag, if_neg fun e => other (by rw [e]; exact cls)]; rfl⟩

theorem issueLine_frame (s : State) : EngineFrame s (issueLine s) := by
  unfold issueLine
  split
  · next t j v free _ _ =>
    have cls := freeTag_class free
    split
    · split
      · exact issue_engineFrame cls _ s.validation _ s
      · exact .refl s
    · split
      · exact issue_engineFrame cls _ _ s.parked s
      · exact .refl s
  · exact .refl s

theorem runValidation_frame (s : State) : EngineFrame s (runValidation s) :=
  ((startJob_frame s).trans (issueLine_frame _)).trans (issueLine_frame _)

theorem issueLine_of_no_jobs {s : State} (h : s.jobs = []) : issueLine s = s := by
  unfold issueLine
  split
  · next head _ => simp [h] at head
  · rfl

theorem runValidation_of_no_jobs {s : State} (h : s.jobs = []) : runValidation s = s := by
  have start : startJob s = s := by rw [startJob, h]
  rw [runValidation, start, issueLine_of_no_jobs h, issueLine_of_no_jobs h]

/-! ### LOAD (R12, R170) -/

theorem listInRange_eq_false_iff (l : ListRef) : listInRange l = false ↔
    l.address.toNat % 16 ≠ 0 ∨ l.count = 0 ∨ 4096 < l.count ∨ 2 ^ 40 < l.address.toNat + 16 * l.count := by
  simp only [listInRange, Bool.and_eq_false_iff, decide_eq_false_iff_not, or_assoc]
  omega

theorem loadArgs_inRange_eq_false_iff (l : LoadArgs) : l.inRange = false ↔
    l.base.toNat % 4096 ≠ 0 ∨ l.pages = 0 ∨ 1048576 < l.pages ∨ 2 ^ 40 < l.base.toNat + 4096 * l.pages ∨
      l.list.address.toNat % 16 ≠ 0 ∨ l.list.count = 0 ∨ 4096 < l.list.count ∨
      2 ^ 40 < l.list.address.toNat + 16 * l.list.count := by
  simp only [LoadArgs.inRange, Bool.and_eq_false_iff, decide_eq_false_iff_not, listInRange_eq_false_iff, or_assoc]
  simp only [LoadArgs.size]
  omega

theorem windowTaken_iff (base : Addr) (size : Nat) (s : State) : windowTaken base size s = true ↔
    ∃ j, (s.ap j).state ≠ .free ∧ (s.ap j).windowBase.toNat < base.toNat + size ∧
      base.toNat < (s.ap j).windowBase.toNat + (s.ap j).windowSize := by
  simp [windowTaken, Aperture.claims, Aperture.meets]

theorem loadFrame_of_named {k : ApId} {args : List Byte} {s : State} (up : s.resetLow = false)
    (running : s.quiescing = false) (size : args.length = 20) (named : k.val = (byteAt args 0).toNat) :
    loadFrame args (beginEvent s) = loadAperture (loadArgs args) k (driveFrame (3 + args.length) (beginEvent s)) := by
  rw [loadFrame, takeCommand_of_not_quiescing _ _ _ up size running, withId_of_val_eq _ _ _ named]

/-- Settles O44, along R170's chain of checks; what the engine does at the acceptance leaves the rest alone. -/
theorem loadIsCheckedInOrder : Obligations.LoadIsCheckedInOrder := by
  intro args s up running size base pages list count bad shares answers
  have bad_iff : (loadArgs args).inRange = false ↔ bad := by
    rw [loadArgs_inRange_eq_false_iff]
    simp only [loadArgs, toNat_address_field]
    rfl
  have shares_iff : windowTaken (loadArgs args).base (loadArgs args).size s = true ↔ shares := by
    rw [windowTaken_iff]
    simp only [loadArgs, LoadArgs.size, toNat_address_field]
    rfl
  refine ⟨fun above => ?above, fun k named => ?named⟩
  case above =>
    refine next_congr ?_
    rw [loadFrame, takeCommand_of_not_quiescing _ _ _ up size running, withId_of_gt _ _ _ above,
      answer_driveFrame_beginEvent]
  case named =>
    let d := driveFrame (3 + args.length) (beginEvent s)
    have taken : exec (.load args) s = .next (loadAperture (loadArgs args) k d) :=
      next_congr (loadFrame_of_named up running size named)
    dsimp only [answers]
    rw [taken]
    refine ⟨fun state => next_congr (if_pos state), fun free isBad => next_congr ?badArgument,
      fun free good shared => next_congr ?overlap, fun free good apart full => next_congr ?busy,
      fun free good apart room => ?accepted⟩
    all_goals have past_state : ¬(d.ap k).state ≠ .free := fun h => h free
    case badArgument => exact (if_neg past_state).trans (if_pos (by rw [bad_iff.mpr isBad]; rfl))
    all_goals
      have past_range : ¬(!(loadArgs args).inRange) = true := by
        rw [Bool.not_eq_true', bad_iff]; exact good
    case overlap =>
      exact (if_neg past_state).trans ((if_neg past_range).trans (if_pos (shares_iff.mpr shared)))
    all_goals
      have past_windows : ¬windowTaken (loadArgs args).base (loadArgs args).size d = true := fun h =>
        apart (shares_iff.mp h)
    case busy =>
      exact (if_neg past_state).trans ((if_neg past_range).trans ((if_neg past_windows).trans (if_pos full)))
    case accepted =>
      let u := joinJob k .load (loadArgs args).list (setAp k (Aperture.loaded (loadArgs args)) d)
      have accepted : loadAperture (loadArgs args) k d = answerOk 0x10 (runValidation u) :=
        (if_neg past_state).trans ((if_neg past_range).trans ((if_neg past_windows).trans
          (if_neg (Nat.not_le.mpr room))))
      have engine := runValidation_frame u
      generalize runValidation u = t at accepted engine
      rw [accepted]
      refine ⟨_, rfl, rfl, fun j => ?_, ?_, engine.reports, engine.cache, engine.requesters, engine.postQueue,
        engine.slots, engine.settings, engine.missQueue, engine.checkpoints, engine.tags⟩
      · exact (ap_congr engine.apertures j).trans (setAp_ap k j _ d)
      · refine engine.jobs.trans ?_
        simp only [u, joinJob_jobs, List.map_append, List.map_cons, List.map_nil]
        rfl

/-! ### REBIND (R14, R171) -/

theorem rebindFrame_of_named {k : ApId} {args : List Byte} {s : State} (up : s.resetLow = false)
    (running : s.quiescing = false) (size : args.length = 9) (named : k.val = (byteAt args 0).toNat) :
    rebindFrame args (beginEvent s) =
      rebindAperture (rebindArgs args) k (driveFrame (3 + args.length) (beginEvent s)) := by
  rw [rebindFrame, takeCommand_of_not_quiescing _ _ _ up size running, withId_of_val_eq _ _ _ named]

/-- Settles O45, along R171's chain of checks; what the engine does at the acceptance leaves the rest alone. -/
theorem rebindIsCheckedInOrder : Obligations.RebindIsCheckedInOrder := by
  intro args s up running size list count bad named_list answers
  have bad_iff : listInRange (rebindArgs args) = false ↔ bad := by
    rw [listInRange_eq_false_iff]
    simp only [rebindArgs, toNat_address_field]
    rfl
  refine ⟨fun above => ?above, fun k named => ?named⟩
  case above =>
    refine next_congr ?_
    rw [rebindFrame, takeCommand_of_not_quiescing _ _ _ up size running, withId_of_gt _ _ _ above,
      answer_driveFrame_beginEvent]
  case named =>
    let d := driveFrame (3 + args.length) (beginEvent s)
    have taken : exec (.rebind args) s = .next (rebindAperture (rebindArgs args) k d) :=
      next_congr (rebindFrame_of_named up running size named)
    dsimp only [answers]
    rw [taken]
    refine ⟨fun state => next_congr (if_pos state), fun active isBad => next_congr ?badArgument,
      fun active good full => next_congr ?busy, fun active good room => ?accepted⟩
    all_goals have past_state : ¬(d.ap k).state ≠ .active := fun h => h active
    case badArgument => exact (if_neg past_state).trans (if_pos (by rw [bad_iff.mpr isBad]; rfl))
    all_goals
      have past_range : ¬(!listInRange (rebindArgs args)) = true := by
        rw [Bool.not_eq_true', bad_iff]; exact good
    case busy => exact (if_neg past_state).trans ((if_neg past_range).trans (if_pos full))
    case accepted =>
      let u := joinJob k .rebind (rebindArgs args)
        (updAp k (fun a => { a with state := .rebinding .validating, pendingList := some (rebindArgs args) }) d)
      have accepted : rebindAperture (rebindArgs args) k d = answerOk 0x11 (runValidation u) :=
        (if_neg past_state).trans ((if_neg past_range).trans (if_neg (Nat.not_le.mpr room)))
      have engine := runValidation_frame u
      generalize runValidation u = t at accepted engine
      rw [accepted]
      refine ⟨_, rfl, rfl, fun j => ?_, ?_, engine.reports, engine.cache, engine.checkpoints, engine.requesters,
        engine.postQueue, engine.slots, engine.settings, engine.missQueue, engine.tags⟩
      · exact (ap_congr engine.apertures j).trans (updAp_ap k j (fun a => { a with state := .rebinding .validating, pendingList := some (rebindArgs args) }) d)
      · refine engine.jobs.trans ?_
        simp only [u, joinJob_jobs, List.map_append, List.map_cons, List.map_nil]
        rfl

/-! ### RETIRE (R24, R172) -/

section
variable {k : ApId} {s : State}

theorem exec_retire_of_named (up : s.resetLow = false) (running : s.quiescing = false) :
    exec (.retire [BitVec.ofNat 8 k.val]) s =
      .next (retireAperture k (driveFrame (3 + [BitVec.ofNat 8 k.val].length) (beginEvent s))) := by
  refine next_congr ?_
  rw [retireFrame, takeCommand_of_not_quiescing (n := 1) _ _ _ up rfl running,
    withId_of_val_eq (b := byteAt [BitVec.ofNat 8 k.val] 0) (k := k) _ _ _ (val_eq_toNat_ofNat k)]

/-- With no job left queued but the aperture's own, none is left for the engine to go on with. -/
theorem cancelJob_jobs_of_own (own : ∀ j ∈ s.jobs, j.aperture = k) : (cancelJob k s).jobs = [] := by
  have none_left : s.jobs.filter (fun j => !(j.aperture == k)) = [] :=
    List.filter_eq_nil_iff.mpr fun j hj => by simp [own j hj]
  unfold cancelJob
  dsimp only
  split <;> exact none_left

@[simp] theorem cancelJob_checkpoints (k : ApId) (s : State) : (cancelJob k s).checkpoints = s.checkpoints := by
  unfold cancelJob; dsimp only; split <;> rfl
@[simp] theorem cancelJob_cache (k : ApId) (s : State) : (cancelJob k s).cache = s.cache := by
  unfold cancelJob; dsimp only; split <;> rfl
@[simp] theorem cancelJob_missQueue (k : ApId) (s : State) : (cancelJob k s).missQueue = s.missQueue := by
  unfold cancelJob; dsimp only; split <;> rfl
@[simp] theorem cancelJob_postQueue (k : ApId) (s : State) : (cancelJob k s).postQueue = s.postQueue := by
  unfold cancelJob; dsimp only; split <;> rfl
@[simp] theorem cancelJob_slots (k : ApId) (s : State) : (cancelJob k s).slots = s.slots := by
  unfold cancelJob; dsimp only; split <;> rfl
@[simp] theorem cancelJob_requesters (k : ApId) (s : State) : (cancelJob k s).requesters = s.requesters := by
  unfold cancelJob; dsimp only; split <;> rfl
@[simp] theorem cancelJob_settings (k : ApId) (s : State) : (cancelJob k s).settings = s.settings := by
  unfold cancelJob; dsimp only; split <;> rfl
@[simp] theorem cancelJob_reports (k : ApId) (s : State) : (cancelJob k s).reports = s.reports := by
  unfold cancelJob; dsimp only; split <;> rfl
@[simp] theorem cancelJob_quiescing (k : ApId) (s : State) : (cancelJob k s).quiescing = s.quiescing := by
  unfold cancelJob; dsimp only; split <;> rfl

theorem answer_post (code : Byte) (a : Answer) (bs : List Byte) (p : Report) (s : State) :
    answer code a bs (post p s) = post p (answer code a bs s) := by
  by_cases room : s.reports.length < 16
  · rw [post_of_room p room, post_of_room p (s := answer code a bs s) room]; rfl
  · rw [post_of_full p (Nat.not_lt.mp room), post_of_full p (s := answer code a bs s) (Nat.not_lt.mp room)]; rfl

theorem setAp_setAp (k : ApId) (a b : Aperture) (s : State) : setAp k a (setAp k b s) = setAp k a s := by
  simp [setAp]

theorem setAp_updAp (k : ApId) (a : Aperture) (f : Aperture → Aperture) (s : State) :
    setAp k a (updAp k f s) = setAp k a s := setAp_setAp k a _ s

/-- The record of an aperture that goes to DRAINING (R24). -/
def Aperture.drain (a : Aperture) : Aperture := { a with state := .draining, pendingList := none, settling := 0 }

theorem drained_updAp_drain_iff (k : ApId) (s : State) : drained k (updAp k Aperture.drain s) = true ↔
    ¬(0 < (s.ap k).inFlight ∨ ∃ w ∈ s.missQueue, w.walk.isSome = true ∧ w.aperture = k) := by
  rw [drained_iff, updAp_ap, if_pos rfl]
  simp [Aperture.drain, updAp, setAp]

theorem startDraining_of_busy
    (busy : 0 < (s.ap k).inFlight ∨ ∃ w ∈ s.missQueue, w.walk.isSome = true ∧ w.aperture = k) :
    startDraining k s = updAp k Aperture.drain s :=
  drainTest_of_not_drained (s := updAp k Aperture.drain s)
    (by rw [← Bool.not_eq_true, drained_updAp_drain_iff]; exact fun h => h busy)

theorem startDraining_of_idle
    (idle : ¬(0 < (s.ap k).inFlight ∨ ∃ w ∈ s.missQueue, w.walk.isSome = true ∧ w.aperture = k)) :
    startDraining k s = post { kind := .retireDone, aperture := some k, generation := some (s.ap k).generation }
      (setPlaces k (Vector.replicate 32 none)
        (setAp k { generation := (s.ap k).generation, faultCount := (s.ap k).faultCount } (invalidateAp k s))) := by
  have drains := drainTest_of_drained ((drained_updAp_drain_iff k s).mpr idle)
  have same : (updAp k Aperture.drain s).ap k = (s.ap k).drain := by rw [updAp_ap, if_pos rfl]
  have freed : enterFree k (invalidateAp k (updAp k Aperture.drain s)) = setPlaces k (Vector.replicate 32 none)
      (setAp k { generation := (s.ap k).generation, faultCount := (s.ap k).faultCount } (invalidateAp k s)) := by
    have now : (invalidateAp k (updAp k Aperture.drain s)).ap k = (s.ap k).drain := same
    have swapped : invalidateAp k (updAp k Aperture.drain s) = updAp k Aperture.drain (invalidateAp k s) := rfl
    rw [enterFree, updAp, now, swapped, setAp_updAp]
    rfl
  rw [same, freed] at drains
  exact drains

theorem retireAperture_of_some {t : State} (h : retire k s = some t) (idle : t.jobs = []) :
    retireAperture k s = answerOk 0x12 t := by
  simp only [retireAperture, h, runValidation_of_no_jobs idle]

theorem retireAperture_of_none (h : retire k s = none) : retireAperture k s = answer 0x12 .badState [] s := by
  simp only [retireAperture, h]

theorem retire_of_active_or_faulted (state : (s.ap k).state = .active ∨ (s.ap k).state = .faulted) :
    retire k s = some (startDraining k s) := by
  obtain h | h := state <;> simp only [retire, h]

theorem startDraining_jobs (k : ApId) (s : State) : (startDraining k s).jobs = s.jobs := by
  rw [startDraining, drainTest_jobs]; rfl

/-- Two records that find room join the tail in their order. -/
theorem post_post_reports {s : State} (p q : Report) (room : s.reports.length < 15) :
    (post q (post p s)).reports = s.reports ++ [p, q] := by
  rw [post_of_room p (by omega), post_of_room q (by simp; omega)]
  simp

/-- What RETIRE leaves of a LOADING aperture before its two records are posted. -/
def unloaded (k : ApId) (s : State) : State := enterFree k (cancelJob k s)

theorem retire_of_loading (state : (s.ap k).state = .loading) :
    retire k s = some (post { kind := .retireDone, aperture := some k, generation := some (s.ap k).generation }
      (post { kind := .loadFailed, cause := some .aborted, aperture := some k } (unloaded k s))) := by
  have generation : ((post { kind := .loadFailed, cause := some .aborted, aperture := some k } (unloaded k s)).ap
      k).generation = (s.ap k).generation := by
    have cancelled : (cancelJob k s).ap k = s.ap k := ap_congr (cancelJob_apertures k s) k
    rw [post_ap, unloaded, enterFree, ap_congr (setPlaces_apertures ..), updAp_ap, if_pos rfl, cancelled]
    rfl
  simp only [retire, state]
  rw [← generation]
  rfl

end

/-- Settles O46, by the aperture's state. -/
theorem retireGoesByState : Obligations.RetireGoesByState := by
  intro k s up running own args x kept done busy
  let d := driveFrame (3 + args.length) (beginEvent s)
  have taken : exec (.retire args) s = .next (retireAperture k d) := exec_retire_of_named up running
  rw [taken]
  refine ⟨fun state => next_congr ?badState, fun state => ?loading, fun state idle => ⟨fun held => next_congr ?draining,
    fun ended => next_congr ?freed⟩⟩
  case badState =>
    refine retireAperture_of_none ?_
    obtain h | h := state
    · have h' : (d.ap k).state = .free := h
      simp only [retire, h']
    · have h' : (d.ap k).state = .draining := h
      simp only [retire, h']
  case loading =>
    have none_left : (cancelJob k d).jobs = [] := cancelJob_jobs_of_own own
    refine ⟨_, next_congr (retireAperture_of_some (retire_of_loading (s := d) state) ?_), rfl, ?_, fun j => ?_, fun i => ?_,
      ?_, ?_, ?_, ?_, ?_, ?_, ?_, fun room => ?_⟩
    · rw [post_jobs, post_jobs]; exact none_left
    · rw [answerOk_jobs, post_jobs, post_jobs]; exact none_left
    · have apertures : (cancelJob k d).apertures = s.apertures := cancelJob_apertures k d
      rw [ap_congr (answerOk_apertures ..), post_ap, post_ap, unloaded, enterFree, ap_congr (setPlaces_apertures ..),
        updAp_ap, ap_congr apertures, ap_congr apertures]
      rfl
    · rw [places_congr (answerOk_checkpoints ..), post_places, post_places, unloaded, enterFree, setPlaces_places,
        if_pos rfl]
      simp
    · rw [answerOk_requesters, post_requesters, post_requesters]; exact cancelJob_requesters k d
    · rw [answerOk_cache, post_cache, post_cache]; exact cancelJob_cache k d
    · rw [answerOk_postQueue, post_postQueue, post_postQueue]; exact cancelJob_postQueue k d
    · rw [answerOk_slots, post_slots, post_slots]; exact cancelJob_slots k d
    · rw [answerOk_missQueue, post_missQueue, post_missQueue]; exact cancelJob_missQueue k d
    · rw [answerOk_settings, post_settings, post_settings]; exact cancelJob_settings k d
    · rw [answerOk_quiescing, post_quiescing, post_quiescing]
      exact (cancelJob_quiescing k d).trans running
    · have reports : (unloaded k d).reports = s.reports := cancelJob_reports k d
      rw [answerOk_reports, post_post_reports _ _ (by rw [reports]; exact room), reports]
      rfl
  case draining =>
    rw [retireAperture_of_some (retire_of_active_or_faulted (s := d) state) ((startDraining_jobs k d).trans idle),
      startDraining_of_busy (s := d) held]
    rfl
  case freed =>
    rw [retireAperture_of_some (retire_of_active_or_faulted (s := d) state) ((startDraining_jobs k d).trans idle),
      startDraining_of_idle (s := d) ended, answerOk, answer_post, invalidateAp_eq]
    rfl

theorem retire_of_validating {k : ApId} {s : State} (state : (s.ap k).state = .rebinding .validating) :
    retire k s = some (startDraining k
      (post { kind := .rebindFailed, cause := some .aborted, aperture := some k
              generation := some (s.ap k).generation } (cancelJob k s))) := by
  simp only [retire, state]

theorem retire_of_settling {k : ApId} {s : State} (state : (s.ap k).state = .rebinding .settling) :
    retire k s = some (startDraining k (clearMarks k s)) := by
  simp only [retire, state]

theorem updAp_drain_ap_of_apertures {k : ApId} {s t : State} (same : t.apertures = s.apertures) (j : ApId) :
    (updAp k Aperture.drain t).ap j = if j = k then (s.ap k).drain else s.ap j := by
  rw [updAp_ap, ap_congr same, ap_congr same]

/-! ### Marks cleared (R24) -/

theorem clearMarks_postQueue_unmarked (k : ApId) (s : State) : ∀ e ∈ (clearMarks k s).postQueue, ∀ x,
    e.core.place = some x → x.aperture = k → e.core.settlingMark = false := by
  intro e member x place at_k
  obtain ⟨e', -, rfl⟩ := List.mem_map.mp member
  dsimp only at place ⊢
  split at place
  · rw [if_pos (by assumption)]
  · next other => exact absurd (by simp [place, at_k]) other

theorem clearMarks_slot_unmarked (k : ApId) (s : State) : ∀ n c, (clearMarks k s).slot n = some c → ∀ x,
    c.core.place = some x → x.aperture = k → c.core.settlingMark = false := by
  intro n c held x place at_k
  simp only [clearMarks, State.slot, Vector.getElem_map, Option.map_eq_some_iff] at held
  obtain ⟨c', -, rfl⟩ := held
  dsimp only at place ⊢
  split at place
  · rw [if_pos (by assumption)]
  · next other => exact absurd (by simp [place, at_k]) other

theorem clearMarks_missQueue_unmarked (k : ApId) (s : State) :
    ∀ w ∈ (clearMarks k s).missQueue, w.aperture = k → w.settlingMark = false := by
  intro w member at_k
  obtain ⟨w', -, rfl⟩ := List.mem_map.mp member
  by_cases own : (w'.aperture == k) = true
  · rw [if_pos own]
  · rw [if_neg own] at at_k
    exact absurd (beq_iff_eq.mpr at_k) own

/-- Settles O47: from either phase the aperture drains, its traffic still attributed. -/
theorem retireAbandonsARebind : Obligations.RetireAbandonsARebind := by
  intro k s up running held own args draining
  let d := driveFrame (3 + args.length) (beginEvent s)
  have taken : exec (.retire args) s = .next (retireAperture k d) := exec_retire_of_named up running
  rw [taken]
  refine ⟨fun state => ?validating, fun state idle => ?settling⟩
  case validating =>
    let p : Report := { kind := .rebindFailed, cause := some .aborted, aperture := some k
                        generation := some (s.ap k).generation }
    let u := post p (cancelJob k d)
    have apertures : u.apertures = s.apertures := (post_apertures ..).trans (cancelJob_apertures k d)
    have busy : 0 < (u.ap k).inFlight := by rw [ap_congr apertures]; exact held
    have drains : retire k d = some (updAp k Aperture.drain u) :=
      (retire_of_validating (s := d) state).trans (congrArg some (startDraining_of_busy (.inl busy)))
    have none_left : (updAp k Aperture.drain u).jobs = [] :=
      (post_jobs p (cancelJob k d)).trans (cancelJob_jobs_of_own own)
    refine ⟨_, next_congr (retireAperture_of_some drains none_left), ⟨rfl, none_left, ?_, ?_, ?_, ?_, ?_,
      updAp_drain_ap_of_apertures apertures⟩, fun room => ?_⟩
    · exact (post_requesters p _).trans (cancelJob_requesters k d)
    · exact (post_cache p _).trans (cancelJob_cache k d)
    · exact (post_checkpoints p _).trans (cancelJob_checkpoints k d)
    · exact (post_settings p _).trans (cancelJob_settings k d)
    · exact (post_quiescing p _).trans ((cancelJob_quiescing k d).trans running)
    · have reports : (cancelJob k d).reports = s.reports := cancelJob_reports k d
      have posted : u.reports = s.reports ++ [p] := by
        rw [show u = post p (cancelJob k d) from rfl, post_of_room p (by rw [reports]; exact room), reports]
      exact posted
  case settling =>
    have drains : retire k d = some (updAp k Aperture.drain (clearMarks k d)) :=
      (retire_of_settling (s := d) state).trans (congrArg some (startDraining_of_busy (.inl held)))
    refine ⟨_, next_congr (retireAperture_of_some drains idle), ⟨rfl, idle, ?_, ?_, ?_, ?_, running, fun j => ?ap⟩, ?_, ?_,
      clearMarks_postQueue_unmarked k d, clearMarks_slot_unmarked k d, clearMarks_missQueue_unmarked k d⟩
    case ap =>
      exact (ap_congr (answerOk_apertures ..) j).trans (updAp_drain_ap_of_apertures (t := clearMarks k d) rfl j)
    all_goals simp [d]

end Sys2Proof.Machine
end

section
/-! SUPPORT and CLAIM. What traffic leaves alone (R75, R91, R129, R153, R167), and the two admissions: an admitted WRITE is
taken (R90, R92), and an unmatched READ opens a slot (R113). -/

namespace Sys2Proof.Machine

open Sys2Proof.Claims

/-! ### What traffic leaves alone -/

/-- What traffic leaves of a requester record: its five settings and its taken sequence. -/
structure ReqCalm (p q : Requester) : Prop where
  enabled : q.enabled = p.enabled
  confined : q.confined = p.confined
  postedLimit : q.postedLimit = p.postedLimit
  slotLimit : q.slotLimit = p.slotLimit
  mode : q.readFailureMode = p.readFailureMode
  taken : q.taken = p.taken

theorem ReqCalm.refl (p : Requester) : ReqCalm p p := ⟨rfl, rfl, rfl, rfl, rfl, rfl⟩

theorem ReqCalm.trans {p q r : Requester} (h : ReqCalm p q) (h' : ReqCalm q r) : ReqCalm p r :=
  ⟨h'.enabled.trans h.enabled, h'.confined.trans h.confined, h'.postedLimit.trans h.postedLimit,
    h'.slotLimit.trans h.slotLimit, h'.mode.trans h.mode, h'.taken.trans h.taken⟩

/-- What traffic leaves alone. -/
structure Calm (s t : State) : Prop where
  resetLow : t.resetLow = s.resetLow
  settings : t.settings = s.settings
  quiescing : t.quiescing = s.quiescing
  response : t.response = s.response
  requesters : ∀ r, ReqCalm (s.req r) (t.req r)

theorem Calm.trans {s t u : State} (h : Calm s t) (h' : Calm t u) : Calm s u :=
  ⟨h'.resetLow.trans h.resetLow, h'.settings.trans h.settings, h'.quiescing.trans h.quiescing,
    h'.response.trans h.response, fun r => (h.requesters r).trans (h'.requesters r)⟩

theorem Calm.refl (s : State) : Calm s s := ⟨rfl, rfl, rfl, rfl, fun _ => ReqCalm.refl _⟩

theorem ReqStands.calm {p q : Requester} (h : ReqStands p q) : ReqCalm p q :=
  ⟨h.enabled, h.confined, h.postedLimit, h.slotLimit, h.mode, h.taken⟩

theorem Stands.calm {s t : State} (h : Stands s t) : Calm s t :=
  ⟨h.resetLow, h.settings, h.quiescing, h.response, fun r => (h.requesters r).calm⟩

/-- An event's changes after what has been calm so far. -/
theorem Calm.then {s t u : State} (h : Calm s t) (going : s.quiescing = false) (changes : Changes .event t u) :
    Calm s u := h.trans (changes.stands (h.quiescing.trans going)).calm

theorem calm_of_changes {s t : State} (going : s.quiescing = false) (changes : Changes .event s t) : Calm s t :=
  (changes.stands going).calm

theorem calm_setReq {r : ReqId} {q : Requester} {s : State} (h : ReqCalm (s.req r) q) : Calm s (setReq r q s) := by
  refine ⟨rfl, rfl, rfl, rfl, fun p => ?_⟩
  rw [setReq_req]
  split_ifs with hp
  · exact hp ▸ h
  · exact ReqCalm.refl _

/-! ### Slots freed (R111) -/

theorem freeSlot_of_empty {n : SlotId} {s : State} (empty : s.slot n = none) : freeSlot n s = s := by
  rw [freeSlot, empty]

theorem calm_of_freed {n : SlotId} {c : Slot} {s t : State} (h : Freed n c s t) : Calm s t := by
  refine ⟨h.untouched.resetLow, h.untouched.settings, h.untouched.quiescing, h.untouched.response, fun r => ?_⟩
  rw [h.requester]
  split_ifs
  · exact ⟨rfl, rfl, rfl, rfl, rfl, rfl⟩
  · exact ReqCalm.refl _

theorem freeSlot_calm (n : SlotId) (s : State) : Calm s (freeSlot n s) := by
  cases held : s.slot n with
  | none => rw [freeSlot_of_empty held]; exact Calm.refl s
  | some c => exact calm_of_freed (freeSlot_freed held)

theorem freeSlot_slot (n m : SlotId) (s : State) : (freeSlot n s).slot m = if m = n then none else s.slot m := by
  cases held : s.slot n with
  | none =>
    rw [freeSlot_of_empty held]
    split_ifs with same
    · exact same ▸ held
    · rfl
  | some c =>
    have freed := freeSlot_freed held
    split_ifs with same
    · exact same ▸ freed.slot
    · exact freed.others m same

theorem freeSlot_tickCounter (n : SlotId) (s : State) : (freeSlot n s).tickCounter = s.tickCounter := by
  cases held : s.slot n with
  | none => rw [freeSlot_of_empty held]
  | some c => exact (freeSlot_freed held).untouched.tickCounter

theorem freeSlot_pending (n : SlotId) (s : State) : (freeSlot n s).pending = s.pending := by
  cases held : s.slot n with
  | none => rw [freeSlot_of_empty held]
  | some c => exact (freeSlot_freed held).untouched.pending

section
variable (ns : List SlotId) (s : State)

theorem freeSlots_calm : Calm s (freeSlots ns s) := by
  induction ns generalizing s with
  | nil => exact Calm.refl s
  | cons n ns ih => exact (freeSlot_calm n s).trans (ih _)

theorem freeSlots_slot (m : SlotId) : (freeSlots ns s).slot m = if m ∈ ns then none else s.slot m := by
  induction ns generalizing s with
  | nil => simp [freeSlots]
  | cons n ns ih =>
    refine (ih (freeSlot n s)).trans ?_
    rw [freeSlot_slot]
    by_cases hm : m ∈ ns <;> by_cases hn : m = n <;> simp [hm, hn]

theorem freeSlots_out : (freeSlots ns s).out = s.out := by
  induction ns generalizing s with
  | nil => rfl
  | cons n ns ih => exact (ih _).trans (freeSlot_out n s)

theorem freeSlots_tickCounter : (freeSlots ns s).tickCounter = s.tickCounter := by
  induction ns generalizing s with
  | nil => rfl
  | cons n ns ih => exact (ih _).trans (freeSlot_tickCounter n s)

theorem freeSlots_pending : (freeSlots ns s).pending = s.pending := by
  induction ns generalizing s with
  | nil => rfl
  | cons n ns ih => exact (ih _).trans (freeSlot_pending n s)

end

/-! ### The take of a write (R90, R92) -/

/-- The entry of a write taken stands in the queue, and its presentation is answered. -/
def writeTaken (r : ReqId) (a : Addr) (len : Nat) (data : List Byte) (p : Option Place) (s : State) : State :=
  createEntry (newEntry r a len data p ((s.req r).taken + 1) s.nextAge) (respond { code := .taken } s)

section
variable (r : ReqId) (a : Addr) (len : Nat) (data : List Byte) (p : Option Place) (s : State)

theorem writeTaken_req (q : ReqId) : (writeTaken r a len data p s).req q =
    if q = r then { s.req r with taken := (s.req r).taken + 1, queuedWrites := (s.req r).queuedWrites + 1 }
    else s.req q := by
  rw [writeTaken, createEntry_req]
  by_cases own : q = r
  · subst own; exact (if_pos rfl).trans (if_pos rfl).symm
  · exact (if_neg own).trans (if_neg own).symm

theorem writeTaken_slot (n : SlotId) : (writeTaken r a len data p s).slot n = s.slot n :=
  slot_congr (raiseInFlight_slots _ _) n

theorem takeWrite_changes_after_drop : Changes .event
    (freeSlots (overlapping r a len (writeTaken r a len data p s)) (writeTaken r a len data p s))
    (takeWrite r a len data p s) :=
  (((reofferIfLeft_changes _ _).trans (beginTranslation_changes _ _)).trans (leaveAll_changes _ _)).trans
    (offerTags_changes event_ne_owner _)

end

theorem mem_overlapping_iff {r : ReqId} {a : Addr} {len : Nat} {n : SlotId} {c : Slot} {s : State}
    (held : s.slot n = some c) : n ∈ overlapping r a len s ↔ c.core.requester = r ∧
      a.toNat < c.core.address.toNat + c.core.length ∧ c.core.address.toNat < a.toNat + len := by
  simp [overlapping, occupied, held, overlaps]

theorem not_mem_overlapping_of_empty {r : ReqId} {a : Addr} {len : Nat} {n : SlotId} {s : State}
    (empty : s.slot n = none) : n ∉ overlapping r a len s := by
  simp [overlapping, occupied, empty]

/-- Settles O11: the entry is created, the overlapping slots are freed, and what follows in the event moves no sequence and
opens no slot. -/
theorem admittedWritesAreTaken : Obligations.AdmittedWritesAreTaken := by
  intro r a len lanes en p s admitted room
  have going := admitted.going
  have up := admitted.passes.up
  have has_room : writeRoom r (beginEvent s) = true := (writeRoom_iff r s).mpr room
  let data := bytesOfLanes a len.toNat lanes
  have taken : exec (.write r a len lanes en) s = .next (takeWrite r a len.toNat data p (beginEvent s)) := by
    rw [exec_write_of_admitted lanes en admitted, writeDecoded, if_pos has_room]
  let c := writeTaken r a len.toNat data p (beginEvent s)
  let drops := overlapping r a len.toNat c
  have going_c : c.quiescing = false := (raiseInFlight_quiescing _ _).trans going
  have dropped := freeSlots_calm drops c
  have stands : Stands (freeSlots drops c) (takeWrite r a len.toNat data p (beginEvent s)) :=
    (takeWrite_changes_after_drop r a len.toNat data p (beginEvent s)).stands (dropped.quiescing.trans going_c)
  have taken_of (q : ReqId) : ((takeWrite r a len.toNat data p (beginEvent s)).req q).taken = (c.req q).taken :=
    (stands.requesters q).taken.trans (dropped.requesters q).taken
  have slot_c (n : SlotId) : c.slot n = s.slot n := writeTaken_slot r a len.toNat data p (beginEvent s) n
  refine ⟨_, taken, ?bus, ?own, fun q ne => ?other, fun n empty => ?stillEmpty, fun n d held => ⟨fun meets => ?meets,
    fun apart => ?apart⟩, ?settings, ?response, ?quiescing, ?resetLow, ?tickCounter, ?pending⟩
  case bus => rw [stands.bus, freeSlots_out]; exact congrArg Outputs.bus (raiseInFlight_out _ _)
  case own => rw [taken_of, writeTaken_req, if_pos rfl]; rfl
  case other => rw [taken_of, writeTaken_req, if_neg ne]; rfl
  case stillEmpty =>
    have stays := stands.slots n
    rw [freeSlots_slot, slot_c, empty, ite_self] at stays
    exact stays
  case meets =>
    have stays := stands.slots n
    rw [freeSlots_slot, if_pos ((mem_overlapping_iff ((slot_c n).trans held)).mpr meets)] at stays
    exact stays
  case apart =>
    have stays := stands.slots n
    rw [freeSlots_slot, if_neg (mt (mem_overlapping_iff ((slot_c n).trans held)).mp apart), slot_c, held] at stays
    obtain ⟨e, now, keeps⟩ := stays
    exact ⟨e, now, keeps.requester, keeps.address, keeps.length, keeps.fence⟩
  case settings => rw [stands.settings, dropped.settings]; exact raiseInFlight_settings _ _
  case response => rw [stands.response, dropped.response]; exact raiseInFlight_response _ _
  case quiescing => rw [stands.quiescing, dropped.quiescing, going_c]
  case resetLow => rw [stands.resetLow, dropped.resetLow]; exact (raiseInFlight_resetLow _ _).trans up
  case tickCounter => rw [stands.tickCounter, freeSlots_tickCounter]; exact raiseInFlight_tickCounter _ _
  case pending => rw [stands.pending, freeSlots_pending]; exact raiseInFlight_pending _ _

/-! ### The opening of a slot (R113) -/

theorem emptySlot_of_room {r : ReqId} {s : State} (room : ReadRoom r s) : ∃ n, emptySlot s = some n ∧ s.slot n = none := by
  obtain ⟨⟨m, empty⟩, -⟩ := room
  cases found : emptySlot s with
  | none => exact absurd (List.find?_eq_none.mp found m (List.mem_finRange m)) (by simp [empty])
  | some n => exact ⟨n, rfl, Option.isNone_iff_eq_none.mp (List.find?_some (p := fun n => (s.slot n).isNone) found)⟩

/-- A slot stands open for a READ, whose presentation is answered RETRY. -/
def readOpened (n : SlotId) (r : ReqId) (a : Addr) (len : Nat) (p : Option Place) (s : State) : State :=
  addSlot n (newSlot r a len p s) (respond busRetry s)

theorem openSlot_eq (n : SlotId) (r : ReqId) (a : Addr) (len : Nat) (p : Option Place) (s : State) :
    openSlot n r a len p s = offerTags (beginTranslation (.slot n) (readOpened n r a len p s)) := rfl

theorem openSlot_changes_after_opening (n : SlotId) (r : ReqId) (a : Addr) (len : Nat) (p : Option Place) (s : State) :
    Changes .event (readOpened n r a len p s) (openSlot n r a len p s) :=
  (beginTranslation_changes _ _).trans (offerTags_changes event_ne_owner _)

theorem exec_read_of_room {r : ReqId} {a : Addr} {len : BitVec 7} {p : Option Place} {s : State}
    (admitted : Admitted false r a len.toNat p s) (unmatched : Unmatched r a len.toNat s) (room : ReadRoom r s)
    {n : SlotId} (found : emptySlot s = some n) :
    exec (.read r a len) s = .next (openSlot n r a len.toNat p (beginEvent s)) := by
  have found' : emptySlot (beginEvent s) = some n := found
  have limit : ((beginEvent s).req r).openSlots < ((beginEvent s).req r).slotLimit := room.2
  rw [exec_read_of_admitted admitted unmatched, readDecoded]
  simp only [found', if_pos limit]

/-- What an occupant shows of itself through an event. -/
theorem SlotStays.map_key {x y : Option Slot} (h : SlotStays x y) :
    x.map (fun d => (d.core.requester, d.core.address, d.core.length)) =
      y.map (fun d => (d.core.requester, d.core.address, d.core.length)) := by
  cases x with
  | none => cases h; rfl
  | some c =>
    obtain ⟨d, rfl, keeps⟩ := h
    simp [keeps.requester, keeps.address, keeps.length]

/-- Settles O15: the slot opens with its fence, and what follows in the event keeps every occupant. -/
theorem unmatchedReadsOpenASlot : Obligations.UnmatchedReadsOpenASlot := by
  intro r a len p s admitted unmatched room
  obtain ⟨n, found, empty⟩ := emptySlot_of_room room
  let c := newSlot r a len.toNat p (beginEvent s)
  let o := readOpened n r a len.toNat p (beginEvent s)
  have going : o.quiescing = false := (raiseInFlight_quiescing _ _).trans admitted.going
  have stands : Stands o (openSlot n r a len.toNat p (beginEvent s)) :=
    (openSlot_changes_after_opening n r a len.toNat p (beginEvent s)).stands going
  have req_o (q : ReqId) : o.req q =
      if q = r then { s.req q with openSlots := (s.req q).openSlots + 1 } else s.req q := addSlot_req n c _ q
  have slot_o (m : SlotId) : o.slot m = if m = n then some c else s.slot m := addSlot_slot n m c _
  have stays := stands.slots n
  rw [slot_o, if_pos rfl] at stays
  obtain ⟨d, now, keeps⟩ := stays
  refine ⟨_, n, d, exec_read_of_room admitted unmatched room found, ?_, empty, now, keeps.requester, keeps.address,
    keeps.length, keeps.place, keeps.fence, fun none_queued => ?_, ?_, fun q ne => ?_, fun m ne => ?_, fun q => ?_,
    ?_, ?_, ?_, ?_, ?_, ?_⟩
  · rw [stands.bus]; exact congrArg Outputs.bus (raiseInFlight_out _ _)
  · exact keeps.met (beq_iff_eq.mpr none_queued)
  · rw [(stands.requesters r).openSlots, req_o, if_pos rfl]
  · rw [(stands.requesters q).openSlots, req_o, if_neg ne]
  · have other := stands.slots m
    rw [slot_o, if_neg ne] at other
    exact other.map_key
  · rw [(stands.requesters q).taken, req_o]
    split_ifs <;> rfl
  · rw [stands.settings]; exact raiseInFlight_settings _ _
  · rw [stands.response]; exact raiseInFlight_response _ _
  · rw [stands.quiescing, going]
  · rw [stands.resetLow]; exact (raiseInFlight_resetLow _ _).trans admitted.passes.up
  · rw [stands.tickCounter]; exact raiseInFlight_tickCounter _ _
  · rw [stands.pending]; exact raiseInFlight_pending _ _

end Sys2Proof.Machine
end

section
/-! SUPPORT and CLAIM. Noninterference (R75, R91, R129, R153, R167): no presentation, memory response, interval or internal
step reaches the settings, the pending response or a requester's settings, and only a WRITE moves a taken sequence. -/

namespace Sys2Proof.Machine

open Sys2Proof.Claims

theorem calm_out (o : Outputs) (s : State) : Calm s { s with out := o } := ⟨rfl, rfl, rfl, rfl, fun _ => ReqCalm.refl _⟩

theorem calm_beginEvent (s : State) : Calm s (beginEvent s) := calm_out {} s

theorem calm_respond (x : BusResponse) (s : State) : Calm s (respond x s) := calm_out _ s

theorem calm_refuse (r : ReqId) (why : RefusalReason) (s : State) : Calm s (refuse r why s) :=
  (calm_respond _ s).trans (calm_setReq ⟨rfl, rfl, rfl, rfl, rfl, rfl⟩)

/-! ### Presentations -/

theorem answerFromSlot_calm (n : SlotId) (s : State) : Calm s (answerFromSlot n s) := by
  unfold answerFromSlot
  split
  · dsimp only
    split
    · exact (calm_respond _ s).trans (freeSlot_calm n _)
    · exact calm_respond _ s
  · exact Calm.refl s

theorem readOpened_calm (n : SlotId) (r : ReqId) (a : Addr) (len : Nat) (p : Option Place) (s : State) :
    Calm s (readOpened n r a len p s) := by
  refine ⟨raiseInFlight_resetLow _ _, raiseInFlight_settings _ _, raiseInFlight_quiescing _ _,
    raiseInFlight_response _ _, fun q => ?_⟩
  rw [readOpened, addSlot_req]
  split_ifs
  · exact ⟨rfl, rfl, rfl, rfl, rfl, rfl⟩
  · exact ReqCalm.refl _

section
variable {s : State} (going : s.quiescing = false)
include going

theorem readDecoded_calm (r : ReqId) (a : Addr) (len : Nat) (p : Option Place) : Calm s (readDecoded r a len p s) := by
  unfold readDecoded
  split
  · split
    · exact (readOpened_calm _ r a len p s).then going (openSlot_changes_after_opening _ r a len p s)
    · exact calm_respond _ s
  · exact calm_respond _ s

theorem readPresented_calm (r : ReqId) (a : Addr) (len : Nat) : Calm s (readPresented r a len s) := by
  unfold readPresented
  split
  · exact calm_respond _ s
  · split
    · exact calm_refuse _ _ s
    · split
      · exact calm_refuse _ _ s
      · split
        · exact answerFromSlot_calm _ s
        · split
          · exact calm_respond _ s
          · exact calm_refuse _ _ s
          · exact readDecoded_calm going r a len _
          · exact readDecoded_calm going r a len _

theorem takeWrite_calm (r : ReqId) (a : Addr) (len : Nat) (data : List Byte) (p : Option Place) :
    Calm (writeTaken r a len data p s) (takeWrite r a len data p s) :=
  (freeSlots_calm _ _).then ((raiseInFlight_quiescing _ _).trans going) (takeWrite_changes_after_drop r a len data p s)

end

/-- A WRITE leaves everything calm, or everything but what the take of its entry moves. -/
def writeCalm (r : ReqId) (a : Addr) (len : Nat) (s t : State) : Prop :=
  Calm s t ∨ ∃ data p, Calm (writeTaken r a len data p s) t

theorem writeDecoded_calm (r : ReqId) (a : Addr) (len : Nat) (data : List Byte) (p : Option Place) {s : State}
    (going : s.quiescing = false) : writeCalm r a len s (writeDecoded r a len data p s) := by
  unfold writeDecoded
  split
  · exact .inr ⟨data, p, takeWrite_calm going r a len data p⟩
  · exact .inl (calm_respond _ s)

theorem writePresented_calm (r : ReqId) (a : Addr) (len : Nat) (lanes : Lanes) {s : State} (going : s.quiescing = false) :
    writeCalm r a len s (writePresented r a len lanes s) := by
  unfold writePresented
  split
  · exact .inl (calm_respond _ s)
  · split
    · exact .inl (calm_refuse _ _ s)
    · split
      · exact .inl (calm_refuse _ _ s)
      · split
        · exact .inl (calm_respond _ s)
        · exact .inl (calm_refuse _ _ s)
        · exact writeDecoded_calm r a len _ none going
        · exact writeDecoded_calm r a len _ (some _) going

theorem syncAnswer_calm (q : Requester) : ReqCalm q (syncAnswer q).2 := by
  unfold syncAnswer
  split
  · split
    · split <;> exact ⟨rfl, rfl, rfl, rfl, rfl, rfl⟩
    · exact ⟨rfl, rfl, rfl, rfl, rfl, rfl⟩
  · exact ReqCalm.refl q
  · split <;> exact ⟨rfl, rfl, rfl, rfl, rfl, rfl⟩

theorem syncPresented_calm (r : ReqId) (s : State) : Calm s (syncPresented r s) := by
  unfold syncPresented
  split
  · exact calm_respond _ s
  · split
    · exact calm_refuse _ _ s
    · split
      · exact calm_respond _ s
      · exact (calm_respond _ s).trans (calm_setReq (syncAnswer_calm _))

/-! ### Memory responses, intervals and the steps inside events -/

section
variable {s : State} (going : s.quiescing = false)
include going

theorem takeResponse_calm (t : TagId) (act : Op → State → State)
    (acts : ∀ op, s.tag t = .outstanding op → Changes .event s (act op (setTag t .free s))) :
    Calm s (takeResponse t act s) := by
  refine calm_of_changes going ?_
  simp only [takeResponse]
  split
  · exact .single (.post _)
  · exact .trans (.tail (.single (.freeTag event_ne_owner t)) (.post _)) (offerTags_changes event_ne_owner _)
  · next op held =>
    refine .trans ?_ (offerTags_changes event_ne_owner _)
    split
    · exact .trans (.single (.freeTag event_ne_owner t)) (endCancelled_changes _ _)
    · exact acts op held

theorem takeResponse_ok_calm (t : TagId) (lanes : Lanes) : Calm s (takeResponse t (fun op s => opOk op lanes s) s) :=
  takeResponse_calm going t _ fun op _ =>
    .trans (.single (.freeTag event_ne_owner t)) (opOk_changes event_ne_owner op lanes _)

theorem takeResponse_error_calm (t : TagId) :
    Calm s (takeResponse t (fun op s => opFailed op .memoryError t s) s) :=
  takeResponse_calm going t _ fun op _ =>
    .trans (.single (.freeTag event_ne_owner t)) (opFailed_changes event_ne_owner op _ _ _)

theorem takeResponse_busy_calm (t : TagId) : Calm s (takeResponse t (opBusy t) s) := by
  refine takeResponse_calm going t _ fun op held => ?_
  unfold opBusy
  dsimp only
  split
  · exact .trans (.single (.freeTag event_ne_owner t)) (opFailed_changes event_ne_owner _ _ _ _)
  · exact .single (.backoff event_ne_owner t op _ held rfl rfl)

theorem expireTag_calm (t : TagId) : Calm s (expireTag t s) := by
  unfold expireTag
  split
  · next op held =>
    refine calm_of_changes going (.trans ?_ (offerTags_changes event_ne_owner _))
    have quarantined : Changes .event s (setTag t (.quarantined op.fields) s) :=
      .single (.quarantine event_ne_owner t _)
    split
    · exact quarantined.trans (endCancelled_changes _ _)
    · exact quarantined.trans (opFailed_changes event_ne_owner _ _ _ _)
  · exact Calm.refl s

omit going in
theorem expireSlot_calm (n : SlotId) (s : State) : Calm s (expireSlot n s) := by
  unfold expireSlot
  split
  · split
    · refine Calm.trans ⟨post_resetLow _ s, post_settings _ s, post_quiescing _ s, post_response _ s, fun r => ?_⟩
        (freeSlot_calm n _)
      rw [post_req]; exact ReqCalm.refl _
    · exact Calm.refl s
  · exact Calm.refl s

omit going in
theorem reissueWalk_changes_event (e : EngineId) (s : State) : Changes .event s (reissueWalk e s) := by
  unfold reissueWalk
  split
  · next op waits =>
    split
    · exact .single (.reissue event_ne_owner _ (.walk e) op (engineTag_class e).symm waits)
    · exact .refl
  · exact .refl

theorem resumeOps_calm : Calm s (resumeOps s) :=
  calm_of_changes going (((reissueWalk_changes_event 0 s).trans (reissueWalk_changes_event 1 _)).trans
    (offerTags_changes event_ne_owner _))

theorem takeExpiry_calm (x : Expiry) : Calm s (takeExpiry x s) := by
  unfold takeExpiry
  split
  · split
    · exact expireTag_calm going _
    · exact expireSlot_calm _ s
    · refine Calm.trans ?_ (resumeOps_calm going)
      exact ⟨rfl, rfl, rfl, rfl, fun _ => ReqCalm.refl _⟩
  · exact Calm.refl s

end

theorem takeExpiries_calm (xs : List Expiry) {s : State} (going : s.quiescing = false) : Calm s (takeExpiries xs s) := by
  induction xs generalizing s with
  | nil => exact Calm.refl s
  | cons x xs ih =>
    have first := takeExpiry_calm going x
    exact first.trans (ih (first.quiescing.trans going))

theorem produceTick_calm {s : State} (going : s.quiescing = false) : Calm s (produceTick s) := by
  unfold produceTick
  have lowered : Calm s (lowerTimers { s with tickCounter := 0 }) := ⟨rfl, rfl, rfl, rfl, fun _ => ReqCalm.refl _⟩
  generalize lowerTimers { s with tickCounter := 0 } = u at lowered
  have going_u : u.quiescing = false := lowered.quiescing.trans going
  have chosen : Calm u { u with choices := u.choices + 1 } := ⟨rfl, rfl, rfl, rfl, fun _ => ReqCalm.refl _⟩
  dsimp only
  split
  · exact lowered.trans (takeExpiries_calm _ going_u)
  · exact (lowered.trans chosen).trans (takeExpiries_calm (s := { u with choices := u.choices + 1 }) _ going_u)

/-- The end of an operation's backoff (R146). -/
theorem backoffEnd_calm (o : OpName) {s : State} (going : s.quiescing = false) :
    Calm s (if inBackoff o s then
      resumeOps { s with parked := s.parked.map fun p => if p.op.owner == some o then { p with waiting := true } else p }
    else s) := by
  split
  · refine Calm.trans ?_ (resumeOps_calm ?_)
    · exact ⟨rfl, rfl, rfl, rfl, fun _ => ReqCalm.refl _⟩
    · exact going
  · exact Calm.refl s

/-! ### Every command of traffic -/

/-- A command that leaves the state calm. -/
def leavesCalm (i : Instr) (s : State) : Prop := ∃ t, exec i s = .next t ∧ Calm s t

theorem leavesCalm_of {i : Instr} {s t : State} (run : exec i s = .next t) (calm : Calm (beginEvent s) t) :
    leavesCalm i s := ⟨t, run, (calm_beginEvent s).trans calm⟩

theorem leavesCalm_of_changes {i : Instr} {s t : State} (going : s.quiescing = false) (run : exec i s = .next t)
    (changes : Changes .event (beginEvent s) t) : leavesCalm i s :=
  leavesCalm_of run (calm_of_changes (s := beginEvent s) going changes)

/-- A step inside an event is the step where its condition stands, and nothing where it does not. -/
theorem changes_ite {c : Prop} [Decidable c] {s t : State} (h : Changes .event s t) :
    Changes .event s (if c then t else s) := by
  split
  · exact h
  · exact .refl

theorem leavesCalm_of_response {i : Instr} {t : TagId} {lanes : Lanes} {code : Nat} {s : State} (up : s.resetLow = false)
    (going : s.quiescing = false) (response : i ∈ responses t lanes code) : leavesCalm i s := by
  have up' : ¬(beginEvent s).resetLow = true := by rw [beginEvent_resetLow, up]; decide
  simp only [responses, List.mem_cons, List.not_mem_nil, or_false] at response
  rcases response with rfl | rfl | rfl
  · exact leavesCalm_of (next_congr (if_neg up')) (takeResponse_ok_calm (s := beginEvent s) going t lanes)
  · exact leavesCalm_of (next_congr (if_neg up')) (takeResponse_busy_calm (s := beginEvent s) going t)
  · exact leavesCalm_of (next_congr (if_neg up')) (takeResponse_error_calm (s := beginEvent s) going t)

/-- The statement of O54 for one command. -/
def trafficStands (i : Instr) (s t : State) : Prop :=
  t.settings = s.settings ∧ t.response = s.response ∧ t.quiescing = false ∧ t.resetLow = false ∧
  ∀ r, (t.req r).enabled = (s.req r).enabled ∧ (t.req r).confined = (s.req r).confined ∧
    (t.req r).postedLimit = (s.req r).postedLimit ∧ (t.req r).slotLimit = (s.req r).slotLimit ∧
    (t.req r).readFailureMode = (s.req r).readFailureMode ∧
    ((∀ a len lanes en, i ≠ .write r a len lanes en) → (t.req r).taken = (s.req r).taken)

theorem Calm.trafficStands {i : Instr} {s t : State} (calm : Calm s t) (up : s.resetLow = false)
    (going : s.quiescing = false) : trafficStands i s t :=
  ⟨calm.settings, calm.response, calm.quiescing.trans going, calm.resetLow.trans up, fun r =>
    have h := calm.requesters r
    ⟨h.enabled, h.confined, h.postedLimit, h.slotLimit, h.mode, fun _ => h.taken⟩⟩

/-- A WRITE taken moves the taken sequence of its own requester. -/
theorem write_trafficStands {r : ReqId} {a : Addr} {len : BitVec 7} {lanes : Lanes} (en : BitVec 64) {s t : State}
    {data : List Byte} {p : Option Place} (calm : Calm (writeTaken r a len.toNat data p (beginEvent s)) t)
    (up : s.resetLow = false) (going : s.quiescing = false) : trafficStands (.write r a len lanes en) s t := by
  refine ⟨calm.settings.trans (raiseInFlight_settings _ _), calm.response.trans (raiseInFlight_response _ _),
    calm.quiescing.trans ((raiseInFlight_quiescing _ _).trans going),
    calm.resetLow.trans ((raiseInFlight_resetLow _ _).trans up), fun q => ?_⟩
  have h := calm.requesters q
  rw [writeTaken_req] at h
  split_ifs at h with own
  · subst own
    exact ⟨h.enabled, h.confined, h.postedLimit, h.slotLimit, h.mode,
      fun other => absurd rfl (other a len lanes en)⟩
  · exact ⟨h.enabled, h.confined, h.postedLimit, h.slotLimit, h.mode, fun _ => h.taken⟩

/-- Settles O54, command by command: what an event changes is what its chain of changes may. -/
theorem trafficLeavesTheSettings : Obligations.TrafficLeavesTheSettings := by
  intro i s up going command
  have of_calm {i : Instr} (h : leavesCalm i s) : ∃ t, exec i s = .next t ∧ trafficStands i s t := by
    obtain ⟨t, run, calm⟩ := h
    exact ⟨t, run, calm.trafficStands up going⟩
  have of_changes {i : Instr} {t : State} (run : exec i s = .next t) (changes : Changes .event (beginEvent s) t) :=
    of_calm (leavesCalm_of_changes going run changes)
  have offered {u : State} (h : Changes .event (beginEvent s) u) : Changes .event (beginEvent s) (offerTags u) :=
    h.trans (offerTags_changes event_ne_owner u)
  rcases command with ⟨r, a, len, lanes, en, rfl⟩ | ⟨r, a, len, rfl⟩ | ⟨r, rfl⟩ | ⟨r, rfl⟩ | ⟨t, lanes, code, response⟩ |
    ⟨t, rfl⟩ | ⟨n, rfl⟩ | ⟨o, rfl⟩ | rfl | rfl | ⟨k, rfl | rfl⟩ | ⟨r, rfl | rfl⟩ | ⟨n, rfl⟩ | rfl | rfl | rfl | rfl | rfl
  case inl =>
    obtain calm | ⟨data, p, calm⟩ := writePresented_calm r a len.toNat lanes (s := beginEvent s) going
    · exact of_calm (leavesCalm_of rfl calm)
    · exact ⟨_, rfl, write_trafficStands en calm up going⟩
  · exact of_calm (leavesCalm_of rfl (readPresented_calm (s := beginEvent s) going r a len.toNat))
  · exact of_calm (leavesCalm_of rfl (syncPresented_calm r (beginEvent s)))
  · exact of_calm (leavesCalm_of (next_congr (if_neg (by simp [up]))) (calm_refuse r _ (beginEvent s)))
  · exact of_calm (leavesCalm_of_response up going response)
  · exact of_calm (leavesCalm_of rfl (expireTag_calm (s := beginEvent s) going t))
  · exact of_calm (leavesCalm_of rfl (expireSlot_calm n (beginEvent s)))
  · exact of_calm (leavesCalm_of rfl (backoffEnd_calm (s := beginEvent s) o going))
  · exact of_calm (leavesCalm_of (exec_tick_of_up up) (produceTick_calm (s := beginEvent s) going))
  · exact of_changes rfl (softResetTest_changes event_ne_owner _)
  · exact of_changes rfl (drainTest_changes k _)
  · exact of_changes rfl (settleTest_changes k _)
  · exact of_changes rfl (changes_ite (offered (leaveAll_changes r _)))
  · exact of_changes rfl (changes_ite (offered (leaveAll_changes r _)))
  · exact of_changes rfl (changes_ite (offered (meetFence_changes n _)))
  · exact of_changes rfl (grants_changes event_ne_owner 12 _)
  · exact of_changes rfl (startWalks_changes event_ne_owner _)
  · exact of_changes rfl (runValidation_changes event_ne_owner _)
  · exact of_changes rfl (.trans (issueLine_changes event_ne_owner _) (issueLine_changes event_ne_owner _))
  · exact of_changes rfl (offered (reoffer_changes _))

end Sys2Proof.Machine
end

section
/-! SUPPORT and CLAIM. Bytes: little-endian fields (Section 10.8), the byte lanes of the two data ports (R73, R138), the check
byte as a polynomial remainder (R166), and FETCH (R167). -/

namespace Sys2Proof.Machine

open Sys2Proof.Claims

/-! ### Little-endian numbers -/

theorem leBytes_succ (n v : Nat) : leBytes (n + 1) v = BitVec.ofNat 8 v :: leBytes n (v / 256) := by
  simp only [leBytes, List.range_succ_eq_map, List.map_cons, List.map_map, Nat.mul_zero, Nat.shiftRight_zero]
  refine congrArg _ (List.map_congr_left fun i _ => congrArg (BitVec.ofNat 8) ?_)
  rw [Nat.succ_eq_add_one, Nat.mul_succ, Nat.add_comm, Nat.shiftRight_add, Nat.shiftRight_eq_div_pow v 8]

theorem leNat_cons (b : Byte) (bs : List Byte) : leNat (b :: bs) = b.toNat + 256 * leNat bs := rfl

theorem leNat_leBytes (n v : Nat) : leNat (leBytes n v) = v % 256 ^ n := by
  induction n generalizing v with
  | zero => simp [leBytes, leNat, Nat.mod_one]
  | succ n ih =>
    rw [leBytes_succ, leNat_cons, ih, BitVec.toNat_ofNat]
    show v % 256 + 256 * (v / 256 % 256 ^ n) = v % 256 ^ (n + 1)
    rw [Nat.pow_succ', Nat.mod_mul]

theorem field_of_take {bs : List Byte} {i n v : Nat} (h : (bs.drop i).take n = leBytes n v) : field bs i n = v % 256 ^ n :=
  (congrArg leNat h).trans (leNat_leBytes n v)

/-- Byte `j` of a little-endian number is that many bytes up. -/
theorem ofNat_leNat_shiftRight (bs : List Byte) (j : Nat) : BitVec.ofNat 8 (leNat bs >>> (8 * j)) = bs.getD j 0 := by
  induction bs generalizing j with
  | nil => simp [leNat]
  | cons b bs ih =>
    cases j with
    | zero =>
      refine BitVec.eq_of_toNat_eq ?_
      have := b.isLt
      simp only [leNat_cons, Nat.mul_zero, Nat.shiftRight_zero, BitVec.toNat_ofNat, List.getD_cons_zero]
      omega
    | succ j =>
      have shifted : leNat (b :: bs) >>> 8 = leNat bs := by
        have := b.isLt
        rw [leNat_cons, Nat.shiftRight_eq_div_pow]
        omega
      rw [Nat.mul_succ, Nat.add_comm, Nat.shiftRight_add, shifted, ih, List.getD_cons_succ]

/-! ### Lanes (R73, R138) -/

theorem laneByte_ofNat (v : Nat) {n : Nat} (lane : n < 64) :
    laneByte (BitVec.ofNat 512 v) n = BitVec.ofNat 8 (v >>> (8 * n)) := by
  ext i hi
  have inside : 8 * n + i < 512 := by omega
  simp only [laneByte, ← BitVec.getLsbD_eq_getElem, BitVec.getLsbD_extractLsb', BitVec.getLsbD_ofNat, inside, hi,
    decide_true, Bool.true_and, Nat.testBit_shiftRight]

/-- What bytes driven on their lanes put on each lane. -/
theorem laneByte_lanesOfBytes (a : Addr) (bs : List Byte) {n : Nat} (lane : n < 64) :
    laneByte (lanesOfBytes a bs) n = if linePos a ≤ n then bs.getD (n - linePos a) 0 else 0 := by
  rw [lanesOfBytes, laneByte_ofNat _ lane]
  split_ifs with before
  · have split : 8 * n = 8 * linePos a + 8 * (n - linePos a) := by omega
    rw [split, Nat.shiftRight_add, Nat.shiftLeft_shiftRight, ofNat_leNat_shiftRight]
  · ext i hi
    have low : ¬8 * linePos a ≤ 8 * n + i := by omega
    simp [← BitVec.getLsbD_eq_getElem, BitVec.getLsbD_ofNat, Nat.testBit_shiftRight, Nat.testBit_shiftLeft, low]

theorem bytesOfLanes_length (a : Addr) (n : Nat) (l : Lanes) : (bytesOfLanes a n l).length = n := by
  simp [bytesOfLanes]

theorem bytesOfLanes_lanesOfBytes {a : Addr} {bs : List Byte} (inside : linePos a + bs.length ≤ 64) :
    bytesOfLanes a bs.length (lanesOfBytes a bs) = bs := by
  refine List.ext_getElem (bytesOfLanes_length _ _ _) fun j hj hj' => ?_
  simp only [bytesOfLanes, List.getElem_map, List.getElem_range]
  rw [byteLane_inside (by omega), laneByte_lanesOfBytes _ _ (by omega), if_pos (Nat.le_add_right _ _),
    Nat.add_sub_cancel_left, List.getD_eq_getElem _ _ hj']

/-- Settles O14: the bytes by their lanes, then the codes. -/
theorem bytesTravelOnTheirLanes : Obligations.BytesTravelOnTheirLanes := by
  refine ⟨fun a bs inside => ⟨fun j hj => ?drive, fun j hj outside => ?idle, ?taken, fun t n => ⟨?write, ?read⟩⟩,
    fun a bs l t j hj short => ⟨?piece, ?pieceTaken⟩, fun r a len lanes en => ⟨rfl, rfl, rfl, rfl⟩,
    fun code t lanes => ⟨rfl, rfl, fun other => ?error⟩, rfl, rfl, fun why => ⟨rfl, rfl, rfl⟩⟩
  case drive =>
    rw [laneByte_lanesOfBytes _ _ (by omega), linePos, if_pos (Nat.le_add_right _ _), Nat.add_sub_cancel_left,
      List.getD_eq_getElem _ _ hj]
  case idle =>
    rw [laneByte_lanesOfBytes _ _ hj, linePos]
    split_ifs
    · exact List.getD_eq_default _ _ (by omega)
    · rfl
  case taken => exact bytesOfLanes_lanesOfBytes inside
  case write =>
    simp only [MemIssue.lane, linePos, true_and]
    split_ifs with lane before before
    · rw [show (n + 64 - a.toNat % 64) % 64 = n - a.toNat % 64 by omega]
    · exact List.getElem?_eq_none (by omega)
    · exact (List.getElem?_eq_none (by omega)).symm
    · rfl
  case read => exact if_neg (by simp)
  case piece =>
    simp only [MemIssue.lane, linePos, true_and]
    rw [if_pos (Nat.mod_lt _ (by decide)), show ((a.toNat + j) % 64 + 64 - a.toNat % 64) % 64 = j by omega,
      List.getElem?_eq_getElem hj]
  case pieceTaken =>
    simp only [bytesOfLanes, List.getElem?_map, List.getElem?_range hj, Option.map_some, byteLane, linePos,
      Nat.mod_add_mod]
  case error =>
    simp only [memoryResponse]
    rw [if_neg (by omega), if_neg (by omega)]

/-! ### The check byte as a remainder (R166) -/

/-- One bit enters the division: the register shifts, and the bit takes the place that falls free. -/
def bitIn (r : Byte) (b : Bool) : Byte := crcShift r ^^^ (if b then 1 else 0)

theorem xor_zero_byte (x : Byte) : x ^^^ 0 = x := BitVec.xor_zero

theorem crcShift_eq (r : Byte) : crcShift r = (r <<< 1) ^^^ (if r.msb then 0x07 else 0) := by
  unfold crcShift
  split <;> simp

theorem shift_or_bit (r : Byte) (b : Bool) :
    (r <<< 1) ||| (if b then (1 : Byte) else 0) = (r <<< 1) ^^^ (if b then (1 : Byte) else 0) := by
  cases b with
  | false => simp
  | true =>
    ext i hi
    cases i <;> simp

theorem remainder_cons (b : Bool) (bs : List Bool) (r : Byte) : remainder (b :: bs) r = remainder bs (bitIn r b) := by
  refine congrArg (remainder bs) ?_
  rw [shift_or_bit, bitIn, crcShift_eq]
  split
  · ac_rfl
  · rw [xor_zero_byte]

theorem remainder_eq_foldl (bs : List Bool) (r : Byte) : remainder bs r = bs.foldl bitIn r := by
  induction bs generalizing r with
  | nil => rfl
  | cons b bs ih => rw [remainder_cons, ih, List.foldl_cons]

/-- Shifting is linear over GF(2). -/
theorem crcShift_xor (x y : Byte) : crcShift (x ^^^ y) = crcShift x ^^^ crcShift y := by
  have feedback (a b : Bool) : (if (a ^^ b) then (0x07 : Byte) else 0) =
      (if a then 0x07 else 0) ^^^ (if b then 0x07 else 0) := by cases a <;> cases b <;> rfl
  simp only [crcShift_eq, BitVec.msb_xor, BitVec.shiftLeft_xor_distrib, feedback]
  ac_rfl

/-- The division started from a register is that started from 0, with the register shifted on beside it. -/
theorem foldl_bitIn_xor (bs : List Bool) (r x : Byte) :
    bs.foldl bitIn (r ^^^ x) = bs.foldl (fun c _ => crcShift c) r ^^^ bs.foldl bitIn x := by
  induction bs generalizing r x with
  | nil => rfl
  | cons b bs ih =>
    have first : bitIn (r ^^^ x) b = crcShift r ^^^ bitIn x b := by
      rw [bitIn, bitIn, crcShift_xor, BitVec.xor_assoc]
    rw [List.foldl_cons, first, ih]
    rfl

/-- Eight bits that enter an empty register stand in it. -/
theorem foldl_bitIn_bitsOf_zero (b : Byte) : (bitsOf b).foldl bitIn 0 = b := by
  revert b
  decide

theorem crcByte_eq (c b : Byte) : crcByte c b = (bitsOf (c ^^^ b)).foldl (fun c _ => crcShift c) (c ^^^ b) := rfl

/-- The CRC of bytes, the register ahead by one byte's shifts, is the division of their bits and eight zeros. -/
theorem crc8_foldl (bs : List Byte) (r : Byte) :
    bs.foldl crcByte ((List.range 8).foldl (fun c _ => crcShift c) r) =
      remainder (bs.flatMap bitsOf ++ List.replicate 8 false) r := by
  induction bs generalizing r with
  | nil =>
    rw [remainder_eq_foldl]
    simp [bitIn, List.replicate, List.range, List.range.loop]
  | cons b bs ih =>
    have byteIn : (bitsOf b).foldl bitIn r = (List.range 8).foldl (fun c _ => crcShift c) r ^^^ b := by
      have split := foldl_bitIn_xor (bitsOf b) r 0
      rw [xor_zero_byte, foldl_bitIn_bitsOf_zero] at split
      exact split
    rw [List.foldl_cons, List.flatMap_cons, List.append_assoc, remainder_eq_foldl, List.foldl_append, byteIn,
      ← remainder_eq_foldl, ← ih]
    rfl

theorem crc8_eq_remainder (bs : List Byte) : crc8 bs = remainder (bs.flatMap bitsOf ++ List.replicate 8 false) 0 :=
  crc8_foldl bs 0

/-! ### FETCH (R167) -/

theorem clockOut_length (n : Nat) (bs : List Byte) : (clockOut n bs).length = n := by
  simp [clockOut]

theorem clockOut_getElem (n : Nat) (bs : List Byte) (i : Nat) (h : i < (clockOut n bs).length) :
    (clockOut n bs)[i] = bs.getD i 0xFF := by
  rw [clockOut_length] at h
  simp only [clockOut, List.getElem_take]
  by_cases inside : i < bs.length
  · rw [List.getElem_append_left inside, List.getD_eq_getElem _ _ inside]
  · rw [List.getElem_append_right (by omega), List.getElem_replicate, List.getD_eq_default _ _ (by omega)]

theorem fetchFrame_of_up {len crc : Byte} {clocks : Nat} {s : State} (up : s.resetLow = false) :
    fetchFrame len crc clocks (beginEvent s) = { s with
      out := { mgt := [0xFF, 0xFF, 0xFF] ++
        clockOut clocks (if len = 0 ∧ crc = crc8 [0x00, len] then fetched s else []) } } :=
  if_neg (by simp [up])

/-- Settles O39, by the linearity of the shift, and by what FETCH clocks out. -/
theorem fetchClocksOutTheResponse : Obligations.FetchClocksOutTheResponse := by
  refine ⟨crc8_eq_remainder, by decide +kernel, fun len crc clocks s up => ⟨_, next_congr (fetchFrame_of_up up),
    clockOut_length _ _, fun i h => ?_⟩⟩
  rw [clockOut_getElem]
  refine ⟨fun wrong => ?_, ?_⟩
  · have idle : ¬(len = 0 ∧ crc = crc8 [0x00, len]) := by
      rintro ⟨rfl, right⟩
      exact wrong.elim (fun h => h rfl) fun h => h right
    rw [if_neg idle]
    rfl
  · intro zero right
    rw [if_pos ⟨zero, by rw [zero]; exact right⟩]
    refine ⟨fun r pending => ?_, fun none_pending => ?_⟩
    · rw [fetched, pending]; rfl
    · rw [fetched, none_pending]; rfl

end Sys2Proof.Machine
end

section
/-! SUPPORT and CLAIM. Extent entries: the checks of R8 and the layout of R176; the validation of a run of entries (R34, R35). -/

namespace Sys2Proof.Machine

open Sys2Proof.Claims

/-! ### The checks of an entry (R8) -/

theorem kindOfCode_of_gt {c : Byte} (h : 3 < c.toNat) : kindOfCode c = none := by
  have h0 : c ≠ 0 := by bv_omega
  have h1 : c ≠ 1 := by bv_omega
  have h2 : c ≠ 2 := by bv_omega
  have h3 : c ≠ 3 := by bv_omega
  simp only [kindOfCode, h0, h1, h2, h3, if_false]

theorem kindOfCode_of_le {c : Byte} (h : ¬3 < c.toNat) :
    ∃ k, kindOfCode c = some k ∧ (k.usesTarget = true ↔ c = 0 ∨ c = 2) := by
  have cases : c = 0 ∨ c = 1 ∨ c = 2 ∨ c = 3 := by bv_omega
  rcases cases with rfl | rfl | rfl | rfl
  · exact ⟨.map, rfl, by decide⟩
  · exact ⟨.zero, rfl, by decide⟩
  · exact ⟨.rom, rfl, by decide⟩
  · exact ⟨.guard, rfl, by decide⟩

theorem checkEntry_eq (tag : Byte) (e : RawEntry) : checkEntry tag e =
    if e.valid = false then some .notValid
    else if e.target.toNat % 16 ≠ 0 then some .misaligned
    else if e.units = 0 then some .zeroLength
    else if 3 < e.kindCode.toNat then some .badKind
    else if e.tag ≠ tag then some .tagMismatch
    else if (e.kindCode = 0 ∨ e.kindCode = 2) ∧ 2 ^ 40 < e.target.toNat + 16 * e.units then some .targetOverflow
    else none := by
  unfold checkEntry
  refine ite_congr (by simp) (fun _ => rfl) fun _ => ite_congr rfl (fun _ => rfl) fun _ =>
    ite_congr rfl (fun _ => rfl) fun _ => ?_
  by_cases kind : 3 < e.kindCode.toNat
  · rw [kindOfCode_of_gt kind, if_pos kind]
  · obtain ⟨k, known, uses⟩ := kindOfCode_of_le kind
    rw [known, if_neg kind]
    refine ite_congr rfl (fun _ => rfl) fun _ => ite_congr ?_ (fun _ => rfl) fun _ => rfl
    rw [Bool.and_eq_true, uses, decide_eq_true_iff, RawEntry.bytes, Nat.mul_comm]

theorem checkEntry_eq_none_iff (tag : Byte) (e : RawEntry) : checkEntry tag e = none ↔
    e.valid = true ∧ e.target.toNat % 16 = 0 ∧ e.units ≠ 0 ∧ e.kindCode.toNat ≤ 3 ∧ e.tag = tag ∧
      (e.kindCode = 0 ∨ e.kindCode = 2 → e.target.toNat + 16 * e.units ≤ 2 ^ 40) := by
  rw [checkEntry_eq]
  constructor
  · intro passed
    split_ifs at passed with valid aligned length kind own fits
    exact ⟨by simpa using valid, not_not.mp aligned, length, Nat.not_lt.mp kind, not_not.mp own,
      fun uses => Nat.not_lt.mp fun past => fits ⟨uses, past⟩⟩
  · rintro ⟨valid, aligned, length, kind, own, fits⟩
    rw [if_neg (by simp [valid]), if_neg (not_not.mpr aligned), if_neg length, if_neg (Nat.not_lt.mpr kind),
      if_neg (not_not.mpr own), if_neg fun h => Nat.not_lt.mpr (fits h.1) h.2]

theorem leBytes_length (n v : Nat) : (leBytes n v).length = n := by simp [leBytes]

theorem field_leBytes_append (n v : Nat) (pre post : List Byte) :
    field (pre ++ leBytes n v ++ post) pre.length n = v % 256 ^ n := by
  refine field_of_take ?_
  rw [List.append_assoc, List.drop_left, List.take_left' (leBytes_length n v)]

/-- The 16 bytes of R176, from their fields. -/
theorem decodeEntry_layout (target : Addr) (units : Nat) (kind tag flags : Byte) (rest : List Byte)
    (h : units < 2 ^ 24) :
    decodeEntry (leBytes 5 target.toNat ++ leBytes 3 units ++ [kind, tag, flags] ++ rest) =
      { target := target, units := units, kindCode := kind, tag := tag, valid := flags.getLsbD 0 } := by
  have target_field : field (leBytes 5 target.toNat ++ leBytes 3 units ++ [kind, tag, flags] ++ rest) 0 5 =
      target.toNat := by
    rw [List.append_assoc, List.append_assoc]
    exact (field_leBytes_append 5 target.toNat [] _).trans (Nat.mod_eq_of_lt target.isLt)
  have units_field : field (leBytes 5 target.toNat ++ leBytes 3 units ++ [kind, tag, flags] ++ rest) 5 3 = units := by
    rw [List.append_assoc]
    exact (field_leBytes_append 3 units (leBytes 5 target.toNat) _).trans (Nat.mod_eq_of_lt h)
  simp only [decodeEntry, target_field, units_field, BitVec.ofNat_toNat, BitVec.setWidth_eq]
  rfl

/-- Settles O33, by the chain of R8 and the layout of R176. -/
theorem entryChecksAndLayout : Obligations.EntryChecksAndLayout :=
  ⟨checkEntry_eq_none_iff, checkEntry_eq, decodeEntry_layout⟩

/-! ### A run of entries (R34, R35) -/

theorem lengthOf_cons (e : RawEntry) (es : List RawEntry) : lengthOf (e :: es) = e.bytes + lengthOf es := by
  simp [lengthOf, RawEntry.bytes, Nat.mul_comm]

theorem lengthOf_append (xs ys : List RawEntry) : lengthOf (xs ++ ys) = lengthOf xs + lengthOf ys := by
  simp only [lengthOf, List.map_append, List.sum_append]

theorem lengthOf_nil : lengthOf [] = 0 := rfl

/-- The record after an entry that passes (R34). -/
def Validation.pass (v : Validation) (e : RawEntry) : Validation :=
  { v.store v.nextEntry with offset := v.offset + e.bytes, nextEntry := v.nextEntry + 1 }

theorem Validation.pass_offset (v : Validation) (e : RawEntry) : (v.pass e).offset = v.offset + e.bytes := rfl

theorem Validation.pass_nextEntry (v : Validation) (e : RawEntry) : (v.pass e).nextEntry = v.nextEntry + 1 := rfl

theorem Validation.pass_stride (v : Validation) (e : RawEntry) : (v.pass e).stride = v.stride := by
  simp only [Validation.pass, Validation.store]
  split <;> rfl

/-- The build buffer takes the running offset at a stride boundary (R34 step 2). -/
theorem Validation.pass_build (v : Validation) (e : RawEntry) (i : Nat) : (v.pass e).build[i]? =
    if v.nextEntry % v.stride = 0 ∧ v.nextEntry / v.stride = i ∧ i < 32 then some (some v.offset) else v.build[i]? := by
  simp only [Validation.pass, Validation.store, beq_iff_eq]
  by_cases boundary : v.nextEntry % v.stride = 0
  · simp only [boundary, true_and]
    by_cases place : v.nextEntry / v.stride = i
    · subst place
      by_cases held : v.nextEntry / v.stride < 32
      · simp [held]
      · simp [held]
    · simp [place]
  · simp [boundary]

section
variable {tag : Byte} {window : Nat} {e : RawEntry} {es : List RawEntry} {v w : Validation}

theorem checkEntries_nil (tag : Byte) (window : Nat) (v : Validation) : checkEntries tag window [] v = .passed v := rfl

theorem checkEntries_of_good (good : checkEntry tag e = none) (fits : v.offset + e.bytes ≤ window) :
    checkEntries tag window (e :: es) v = checkEntries tag window es (v.pass e) := by
  simp only [checkEntries, good]
  exact if_neg (Nat.not_lt.mpr fits)

theorem checkEntries_of_bad {b : BadEntry} (bad : checkEntry tag e = some b) : checkEntries tag window (e :: es) v =
    .failed { cause := .badEntry, sub := some (.bad b), index := v.nextEntry, tag := none } := by
  simp only [checkEntries, bad]

theorem checkEntries_of_long (good : checkEntry tag e = none) (past : window < v.offset + e.bytes) :
    checkEntries tag window (e :: es) v =
      .failed { cause := .tooLong, sub := none, index := v.nextEntry, tag := none } := by
  simp only [checkEntries, good]
  exact if_pos past

/-- A run that passes begins with an entry that does. -/
theorem checkEntries_cons_passed (passed : checkEntries tag window (e :: es) v = .passed w) :
    checkEntry tag e = none ∧ v.offset + e.bytes ≤ window ∧ checkEntries tag window es (v.pass e) = .passed w := by
  cases check : checkEntry tag e with
  | some b => rw [checkEntries_of_bad check] at passed; cases passed
  | none =>
    by_cases fits : v.offset + e.bytes ≤ window
    · exact ⟨rfl, fits, checkEntries_of_good check fits ▸ passed⟩
    · rw [checkEntries_of_long check (Nat.not_le.mp fits)] at passed; cases passed

end

/-- Later entries leave the places of earlier stride boundaries as they are. -/
theorem checkEntries_build_before {tag : Byte} {window : Nat} {es : List RawEntry} {v w : Validation}
    (passed : checkEntries tag window es v = .passed w) {i : Nat} (before : i < v.nextEntry)
    (boundary : i % v.stride = 0) (positive : 0 < v.stride) : w.build[i / v.stride]? = v.build[i / v.stride]? := by
  induction es generalizing v with
  | nil => cases passed; rfl
  | cons e es ih =>
    obtain ⟨-, -, rest⟩ := checkEntries_cons_passed passed
    have later := ih rest (by rw [v.pass_nextEntry]; omega) (by rw [v.pass_stride]; exact boundary)
      (by rw [v.pass_stride]; exact positive)
    rw [v.pass_stride] at later
    rw [later, v.pass_build, if_neg]
    rintro ⟨atBoundary, place, -⟩
    have apart := Nat.div_add_mod i v.stride
    have apart' := Nat.div_add_mod v.nextEntry v.stride
    rw [place, atBoundary] at apart'
    omega

/-- What a run of entries that passes leaves (R34). -/
theorem checkEntries_passed {tag : Byte} {window : Nat} {es : List RawEntry} {v w : Validation}
    (passed : checkEntries tag window es v = .passed w) :
    (∀ e ∈ es, checkEntry tag e = none) ∧ w.offset = v.offset + lengthOf es ∧ (es ≠ [] → w.offset ≤ window) ∧
      w.nextEntry = v.nextEntry + es.length ∧
      ∀ j < es.length, (v.nextEntry + j) % v.stride = 0 → (v.nextEntry + j) / v.stride < 32 → 0 < v.stride →
        w.build[(v.nextEntry + j) / v.stride]? = some (some (v.offset + lengthOf (es.take j))) := by
  induction es generalizing v with
  | nil =>
    cases passed
    exact ⟨fun e h => absurd h List.not_mem_nil, rfl, fun h => absurd rfl h, rfl, fun j h => absurd h (Nat.not_lt_zero j)⟩
  | cons e es ih =>
    obtain ⟨good, fits, rest⟩ := checkEntries_cons_passed passed
    obtain ⟨others, offset, within, next, places⟩ := ih rest
    rw [v.pass_offset] at offset
    refine ⟨List.forall_mem_cons.mpr ⟨good, others⟩, by rw [offset, lengthOf_cons, Nat.add_assoc], fun _ => ?_, ?_,
      fun j inside boundary held positive => ?_⟩
    · by_cases last : es = []
      · rw [offset, last, lengthOf_nil, Nat.add_zero]; exact fits
      · exact within last
    · rw [next, v.pass_nextEntry, List.length_cons]; omega
    · cases j with
      | zero =>
        rw [Nat.add_zero] at boundary held ⊢
        have kept := checkEntries_build_before rest (i := v.nextEntry) (by rw [v.pass_nextEntry]; omega)
          (by rw [v.pass_stride]; exact boundary) (by rw [v.pass_stride]; exact positive)
        rw [v.pass_stride] at kept
        rw [kept, v.pass_build, if_pos ⟨boundary, rfl, held⟩]
        rfl
      | succ j =>
        have shifted : v.nextEntry + (j + 1) = v.nextEntry + 1 + j := by omega
        rw [shifted] at boundary held ⊢
        have placed := places j (by simpa using inside) (by rw [v.pass_nextEntry, v.pass_stride]; exact boundary)
          (by rw [v.pass_nextEntry, v.pass_stride]; exact held) (by rw [v.pass_stride]; exact positive)
        rw [v.pass_nextEntry, v.pass_stride, v.pass_offset] at placed
        rw [placed, List.take_succ_cons, lengthOf_cons, Nat.add_assoc]

/-- Good entries whose sum stays in the window pass (R34, R35). -/
theorem checkEntries_of_all_good {tag : Byte} {window : Nat} {es : List RawEntry} {v : Validation}
    (good : ∀ e ∈ es, checkEntry tag e = none) (fits : v.offset + lengthOf es ≤ window) :
    ∃ w, checkEntries tag window es v = .passed w := by
  induction es generalizing v with
  | nil => exact ⟨v, rfl⟩
  | cons e es ih =>
    obtain ⟨first, others⟩ := List.forall_mem_cons.mp good
    rw [lengthOf_cons] at fits
    rw [checkEntries_of_good first (by omega)]
    exact ih others (by rw [v.pass_offset]; omega)

/-- The good entries before the first offender are passed over. -/
theorem checkEntries_skip {tag : Byte} {window : Nat} {pre es : List RawEntry} {v : Validation}
    (good : ∀ e ∈ pre, checkEntry tag e = none) (fits : v.offset + lengthOf pre ≤ window) :
    ∃ w, checkEntries tag window (pre ++ es) v = checkEntries tag window es w ∧
      w.nextEntry = v.nextEntry + pre.length ∧ w.offset = v.offset + lengthOf pre := by
  induction pre generalizing v with
  | nil => exact ⟨v, rfl, rfl, rfl⟩
  | cons e pre ih =>
    obtain ⟨first, others⟩ := List.forall_mem_cons.mp good
    rw [lengthOf_cons] at fits
    obtain ⟨w, skipped, next, offset⟩ := ih others (v := v.pass e) (by rw [v.pass_offset]; omega)
    refine ⟨w, (checkEntries_of_good first (by omega)).trans skipped, ?_, ?_⟩
    · rw [next, v.pass_nextEntry, List.length_cons]; omega
    · rw [offset, v.pass_offset, lengthOf_cons, Nat.add_assoc]

/-- Settles O34, by induction along the entries. -/
theorem aListPassesEntryByEntry : Obligations.AListPassesEntryByEntry := by
  intro tag window es v
  refine ⟨fun w passed => checkEntries_passed passed, checkEntries_of_all_good, fun j inside good fits => ?_⟩
  obtain ⟨w, skipped, next, offset⟩ := checkEntries_skip (es := es[j] :: es.drop (j + 1)) good fits
  rw [← List.drop_eq_getElem_cons inside, List.take_append_drop, List.drop_eq_getElem_cons inside] at skipped
  rw [List.length_take_of_le (Nat.le_of_lt inside)] at next
  rw [skipped]
  refine ⟨fun b bad => ?_, fun last past => ?_⟩
  · rw [checkEntries_of_bad bad, next]
  · have step : lengthOf (es.take (j + 1)) = lengthOf (es.take j) + es[j].bytes := by
      rw [List.take_succ_eq_append_getElem inside, lengthOf_append, lengthOf_cons, lengthOf_nil, Nat.add_zero]
    rw [checkEntries_of_long last (by rw [offset]; omega), next]

end Sys2Proof.Machine
end

section
/-! SUPPORT and CLAIM. The records of QUERY, GET_REQUESTER and POP_REPORT, byte by byte (R177, R178): a reader that goes along
the segments of a record, and flags as the bits of a number. -/

namespace Sys2Proof.Machine

open Sys2Proof.Claims

/-! ### Reading along segments -/

theorem field_cons_skip {i : Nat} (h : 1 ≤ i) (b : Byte) (bs : List Byte) (n : Nat) :
    field (b :: bs) i n = field bs (i - 1) n := by
  obtain ⟨j, rfl⟩ := Nat.exists_eq_add_of_le' h
  rfl

theorem field_leBytes_skip {i m : Nat} (h : m ≤ i) (v : Nat) (bs : List Byte) (n : Nat) :
    field (leBytes m v ++ bs) i n = field bs (i - m) n := by
  rw [field, field, List.drop_append, leBytes_length, List.drop_eq_nil_of_le (by rw [leBytes_length]; exact h),
    List.nil_append]

theorem field_leBytes_here (n v : Nat) (bs : List Byte) : field (leBytes n v ++ bs) 0 n = v % 256 ^ n :=
  field_leBytes_append n v [] bs

theorem byteAt_cons_skip {i : Nat} (h : 1 ≤ i) (b : Byte) (bs : List Byte) : byteAt (b :: bs) i = byteAt bs (i - 1) := by
  obtain ⟨j, rfl⟩ := Nat.exists_eq_add_of_le' h
  rfl

theorem byteAt_cons_here (b : Byte) (bs : List Byte) : byteAt (b :: bs) 0 = b := rfl

theorem byteAt_leBytes_skip {i m : Nat} (h : m ≤ i) (v : Nat) (bs : List Byte) :
    byteAt (leBytes m v ++ bs) i = byteAt bs (i - m) := by
  have at_end : (leBytes m v).length ≤ i := by rw [leBytes_length]; exact h
  rw [byteAt, byteAt, List.getD_append_right _ _ _ _ at_end, leBytes_length]

theorem leBytes_append_zero (m n : Nat) : leBytes m 0 ++ leBytes n 0 = leBytes (m + n) 0 := by
  have zeros (k : Nat) : leBytes k 0 = List.replicate k 0 := by
    refine List.eq_replicate_iff.mpr ⟨leBytes_length k 0, fun b hb => ?_⟩
    obtain ⟨i, -, rfl⟩ := List.mem_map.mp hb
    simp
  rw [zeros, zeros, zeros, List.replicate_append_replicate]

theorem toNat_toByte {n : Nat} (h : n < 256) : (toByte n).toNat = n :=
  (BitVec.toNat_ofNat n 8).trans (Nat.mod_eq_of_lt h)

theorem toNat_toByte_val (k : Fin 16) : (toByte k.val).toNat = k.val := toNat_toByte (by omega)

/-! ### Flags as bits -/

/-- The number whose bits, lowest first, are given. -/
def bitsNat (l : List Bool) : Nat := l.foldr (fun b n => b.toNat + 2 * n) 0

theorem flagBit_eq (k : Nat) (b : Bool) : flagBit k b = b.toNat * 2 ^ k := by cases b <;> simp [flagBit]

theorem bitsNat_lt (l : List Bool) : bitsNat l < 2 ^ l.length := by
  induction l with
  | nil => simp [bitsNat]
  | cons b l ih =>
    have := b.toNat_le
    simp only [bitsNat, List.foldr_cons, List.length_cons, Nat.pow_succ'] at ih ⊢
    omega

theorem bitsNat_testBit (l : List Bool) (i : Nat) : (bitsNat l).testBit i = l.getD i false := by
  induction l generalizing i with
  | nil => simp [bitsNat]
  | cons b l ih =>
    have shape : bitsNat (b :: l) = 2 * bitsNat l + b.toNat := Nat.add_comm _ _
    rw [shape]
    cases i with
    | zero => cases b <;> simp
    | succ i =>
      rw [Nat.testBit_succ, List.getD_cons_succ, ← ih]
      have := b.toNat_le
      congr 1
      omega

theorem toByte_bitsNat_getLsbD {l : List Bool} {i : Nat} (h : i < 8) : (toByte (bitsNat l)).getLsbD i = l.getD i false := by
  rw [toByte, BitVec.getLsbD_ofNat, bitsNat_testBit, decide_eq_true h, Bool.true_and]

theorem toByte_bitsNat_lt {l : List Bool} (h : l.length ≤ 8) : (toByte (bitsNat l)).toNat < 2 ^ l.length := by
  have := bitsNat_lt l
  have : 2 ^ l.length ≤ 2 ^ 8 := Nat.pow_le_pow_right (by decide) h
  rw [toNat_toByte (by omega)]
  exact bitsNat_lt l

theorem flags_two (a b : Bool) : flagBit 0 a + flagBit 1 b = bitsNat [a, b] := by
  simp only [flagBit_eq, bitsNat, List.foldr_cons, List.foldr_nil]
  omega

theorem flags_five (a b c d e : Bool) :
    flagBit 0 a + flagBit 1 b + flagBit 2 c + flagBit 3 d + flagBit 4 e = bitsNat [a, b, c, d, e] := by
  simp only [flagBit_eq, bitsNat, List.foldr_cons, List.foldr_nil]
  omega

theorem presence_eq (p : Report) : p.presence = bitsNat [p.cause.isSome, p.sub.isSome, p.requester.isSome,
    p.aperture.isSome, p.generation.isSome, p.sequence.isSome, p.address.isSome, p.windowOffset.isSome,
    p.extentIndex.isSome, p.tag.isSome] := by
  simp only [Report.presence, flagBit_eq, bitsNat, List.foldr_cons, List.foldr_nil]
  omega

/-! ### The three records -/

/-- The segments of a record in a row. -/
theorem aperture_encode_eq (k : ApId) (a : Aperture) : a.encode k =
    toByte k.val :: toByte a.state.code :: toByte a.state.phaseCode ::
    toByte (bitsNat [a.resume.isSome, a.pendingList.isSome]) :: (leBytes 5 a.windowBase.toNat ++
    (leBytes 3 (a.windowSize / 4096) ++ (leBytes 5 a.listAddress.toNat ++ (leBytes 2 a.entryCount ++
    a.listTag :: (leBytes 5 a.mappedLength ++ toByte (bitsNat [a.readAllowed, a.writeAllowed]) ::
    (leBytes 2 a.mask.toNat ++ a.generation :: (leBytes 2 (a.resume.getD { index := 0, start := 0 }).index ++
    (leBytes 4 (a.resume.getD { index := 0, start := 0 }).start ++ toByte a.stride :: toByte a.inFlight ::
    toByte a.settling :: (leBytes 5 (a.pendingList.getD { address := 0, count := 0, tag := 0 }).address.toNat ++
    (leBytes 2 (a.pendingList.getD { address := 0, count := 0, tag := 0 }).count ++
    [(a.pendingList.getD { address := 0, count := 0, tag := 0 }).tag, toByte a.faultCount])))))))))) := by
  simp only [Aperture.encode, rightsByte, flags_two, List.append_assoc, List.cons_append, List.nil_append]

theorem requester_encode_eq (r : ReqId) (q : Requester) : q.encode r =
    toByte r.val ::
    toByte (bitsNat [q.enabled, q.confined, q.mark.isSome, q.mark.elim false (·.2), q.lossFlag]) ::
    toByte q.postedLimit :: toByte q.slotLimit :: toByte q.readFailureMode.code :: (leBytes 2 q.refusedCount ++
    [q.taken, q.completed, q.mark.elim 0 (·.1), toByte q.queuedWrites, toByte q.openSlots]) := by
  simp only [Requester.encode, flags_five, List.cons_append, List.nil_append]

theorem report_encode_eq (p : Report) : p.encode =
    toByte p.kind.code :: toByte (p.cause.elim 0 Cause.code) :: toByte (p.sub.elim 0 SubReason.code) ::
    (leBytes 2 p.presence ++ toByte (p.requester.elim 0 (·.val)) :: toByte (p.aperture.elim 0 (·.val)) ::
    p.generation.getD 0 :: p.sequence.getD 0 :: (leBytes 5 (p.address.elim 0 (·.toNat)) ++
    (leBytes 4 (p.windowOffset.getD 0) ++ (leBytes 2 (p.extentIndex.getD 0) ++ [toByte (p.tag.elim 0 (·.val))])))) := by
  simp only [Report.encode, List.append_assoc, List.cons_append, List.nil_append]

theorem field_of_lt {n v : Nat} (h : v < 256 ^ n) (bs : List Byte) : field (leBytes n v ++ bs) 0 n = v :=
  (field_leBytes_here n v bs).trans (Nat.mod_eq_of_lt h)

/-- Settles O41: each record read along its segments, then each field by what stands in its place. -/
theorem recordsHoldTheirFields : Obligations.RecordsHoldTheirFields := by
  have no_field {n : Nat} (bs : List Byte) : field (leBytes n 0 ++ bs) 0 n = 0 :=
    (field_leBytes_here n 0 bs).trans (Nat.zero_mod _)
  refine ⟨fun k a => ?aperture, fun r q => ?requester, fun p => ?report⟩
  case aperture =>
    intro bs
    have length : bs.length = 47 := by simp [bs, aperture_encode_eq, leBytes_length]
    have low (x y : Bool) : (toByte (bitsNat [x, y])).getLsbD 0 = x := toByte_bitsNat_getLsbD (l := [x, y]) (by decide)
    have high (x y : Bool) : (toByte (bitsNat [x, y])).getLsbD 1 = y := toByte_bitsNat_getLsbD (l := [x, y]) (by decide)
    have few (x y : Bool) : (toByte (bitsNat [x, y])).toNat < 4 := toByte_bitsNat_lt (l := [x, y]) (by simp)
    have address (x : Addr) : x.toNat % 256 ^ 5 = x.toNat := Nat.mod_eq_of_lt x.isLt
    refine ⟨length, ?_⟩
    simp only [bs, aperture_encode_eq, byteAt_cons_skip, byteAt_cons_here, byteAt_leBytes_skip, field_cons_skip,
      field_leBytes_skip, field_leBytes_here, Nat.reduceLeDiff, Nat.reduceSub, le_refl, low, high, few, address]
    refine ⟨toNat_toByte_val k, ?state, ?phase, trivial, trivial, trivial, trivial, fun h => Nat.mod_eq_of_lt (by omega),
      trivial, fun h => Nat.mod_eq_of_lt (by omega), trivial, fun h => Nat.mod_eq_of_lt (by omega), trivial, trivial,
      trivial, Nat.mod_eq_of_lt a.mask.isLt, trivial, ?resume, ?no_resume, toNat_toByte, toNat_toByte, toNat_toByte,
      ?pending, ?no_pending, toNat_toByte⟩
    case state => cases a.state <;> rfl
    case phase =>
      cases a.state
      case rebinding p => cases p <;> rfl
      all_goals rfl
    case resume =>
      rintro h present index start
      rw [present]
      exact ⟨Nat.mod_eq_of_lt index, Nat.mod_eq_of_lt start⟩
    case no_resume =>
      intro absent
      rw [absent, ← List.append_assoc]
      exact (congrArg (fun l => field (l ++ _) 0 6) (leBytes_append_zero 2 4)).trans (no_field _)
    case pending =>
      rintro l present
      rw [present]
      exact ⟨rfl, fun count => Nat.mod_eq_of_lt count, rfl⟩
    case no_pending =>
      intro absent
      rw [absent, ← List.append_assoc]
      exact (congrArg (fun l => field (l ++ [toByte a.faultCount]) 0 8)
        (congrArg (· ++ leBytes 1 0) (leBytes_append_zero 5 2))).trans (no_field _)
  case requester =>
    intro bs
    have length : bs.length = 12 := by simp [bs, requester_encode_eq, leBytes_length]
    have flag (a b c d e : Bool) {i : Nat} (h : i < 8) := toByte_bitsNat_getLsbD (l := [a, b, c, d, e]) h
    have few (a b c d e : Bool) : (toByte (bitsNat [a, b, c, d, e])).toNat < 32 :=
      toByte_bitsNat_lt (l := [a, b, c, d, e]) (by simp)
    refine ⟨length, ?_⟩
    simp only [bs, requester_encode_eq, byteAt_cons_skip, byteAt_cons_here, byteAt_leBytes_skip, field_cons_skip,
      field_leBytes_here, Nat.reduceLeDiff, Nat.reduceSub, le_refl, flag, Nat.reduceLT, few]
    refine ⟨toNat_toByte_val r, rfl, rfl, rfl, ?reached, rfl, trivial, toNat_toByte, toNat_toByte, ?mode,
      fun h => Nat.mod_eq_of_lt h, trivial, trivial, ?mark, ?no_mark, toNat_toByte, toNat_toByte⟩
    case reached =>
      cases q.mark with
      | none => simp
      | some m => simp [Prod.ext_iff]
    case mode => cases q.readFailureMode <;> rfl
    case mark => rintro m reached present; rw [present]; rfl
    case no_mark => intro absent; rw [absent]; rfl
  case report =>
    intro bs present
    have length : bs.length = 21 := by simp [bs, report_encode_eq, leBytes_length]
    have presence : field bs 3 2 = p.presence := by
      simp only [bs, report_encode_eq, field_cons_skip, Nat.reduceLeDiff, Nat.reduceSub]
      refine field_of_lt ?_ _
      rw [presence_eq]
      exact (bitsNat_lt _).trans (by simp)
    have bit (i : Nat) := (congrArg (·.testBit i) (presence.trans (presence_eq p))).trans (bitsNat_testBit _ i)
    have small : field bs 3 2 < 1024 := by
      rw [presence, presence_eq]
      exact (bitsNat_lt _).trans_eq (by simp)
    refine ⟨length, ?_⟩
    refine and_assoc.mp (and_assoc.mp ⟨?_, bit 0, bit 1, bit 2, bit 3, bit 4, bit 5, bit 6, bit 7, bit 8, bit 9, small, ?_⟩)
    all_goals simp only [bs, report_encode_eq, byteAt_cons_skip, byteAt_cons_here, byteAt_leBytes_skip, field_cons_skip,
      field_leBytes_skip, field_leBytes_here, Nat.reduceLeDiff, Nat.reduceSub, le_refl]
    · refine ⟨⟨?kind, ?cause⟩, ?sub⟩
      case kind => cases p.kind <;> rfl
      case cause =>
        cases p.cause with
        | none => rfl
        | some c => cases c <;> rfl
      case sub =>
        cases p.sub with
        | none => rfl
        | some c =>
          cases c with
          | bad b => cases b <;> rfl
          | mem m => cases m <;> rfl
    · refine ⟨?requester, ?aperture, trivial, trivial, ?address, ?offset, ?extent, ?tag⟩
      case requester =>
        cases p.requester with
        | none => rfl
        | some r => exact toNat_toByte_val r
      case aperture =>
        cases p.aperture with
        | none => rfl
        | some k => exact toNat_toByte_val k
      case address =>
        cases p.address with
        | none => rfl
        | some a => exact Nat.mod_eq_of_lt a.isLt
      case offset =>
        intro bound
        cases given : p.windowOffset with
        | none => rfl
        | some o => exact Nat.mod_eq_of_lt (bound o given)
      case extent =>
        intro bound
        cases given : p.extentIndex with
        | none => rfl
        | some o => exact Nat.mod_eq_of_lt (bound o given)
      case tag =>
        cases p.tag with
        | none => rfl
        | some t => exact toNat_toByte (t.isLt.trans (by decide))

end Sys2Proof.Machine
end

section
/-! SUPPORT and CLAIM. The end of a quiet event: what offering FREE tags to their classes does when nothing, or one piece,
waits (R31, R63, R142); and the responses to operations without an owner, and BUSY within the budget. -/

namespace Sys2Proof.Machine

open Sys2Proof.Claims

/-! ### FREE tags -/

theorem find?_finRange_eq_some {n : Nat} {P : Fin n → Bool} {t : Fin n} (here : P t = true)
    (below : ∀ u, u < t → P u = false) : (List.finRange n).find? P = some t :=
  List.find?_eq_some_iff_getElem.mpr ⟨here, t.val, by simp, by simp, fun j h => by simp [below ⟨j, by omega⟩ h]⟩

theorem freeTag_of_lowest {c : TagClass} {t : TagId} {s : State} (h : Lowest c t s) : freeTag c s = some t := by
  obtain ⟨cls, free, below⟩ := h
  refine find?_finRange_eq_some (by simp [cls, free, isFree_eq]) fun u lower => ?_
  have := below u lower
  rw [isFree_eq]
  simpa using this

theorem freeTag_of_noneFree {c : TagClass} {s : State} (h : NoneFree c s) : freeTag c s = none := by
  refine List.find?_eq_none.mpr fun t _ => ?_
  have := h t
  rw [isFree_eq]
  simpa using this

theorem freeTag_congr {s t : State} (tags : t.tags = s.tags) (c : TagClass) : freeTag c t = freeTag c s := by
  simp only [freeTag, tag_congr tags]

/-! ### Operations and pieces that wait -/

theorem waitingOp_eq (o : OpName) (s : State) :
    waitingOp o s = ((s.parked.filter (·.waiting)).find? fun p => p.op.owner == some o).map (·.op) := by
  rw [waitingOp, List.find?_filter]
  simp only [Bool.and_comm, Bool.decide_and, Bool.decide_eq_true]

theorem waitingOp_congr {s t : State} (h : t.parked.filter (·.waiting) = s.parked.filter (·.waiting)) (o : OpName) :
    waitingOp o t = waitingOp o s := by rw [waitingOp_eq, waitingOp_eq, h]

theorem waitingOp_of_none_waiting {s : State} (h : ∀ x ∈ s.parked, x.waiting = false) (o : OpName) :
    waitingOp o s = none := by
  rw [waitingOp_eq, List.filter_eq_nil_iff.mpr fun x mem => by simp [h x mem]]
  rfl

theorem pieceWaits_congr {o : OwnerRef} {s t : State} (h : ∀ i, waitingOp (.piece o i) t = waitingOp (.piece o i) s) :
    pieceWaits o t = pieceWaits o s := by
  funext p
  simp only [pieceWaits, h]

theorem head_congr {s t : State} (h : t.postQueue = s.postQueue) (r : ReqId) : head r t = head r s := by
  rw [head, head, h]

theorem waitingWrite_congr {s t : State} (entries : t.postQueue = s.postQueue)
    (waiting : ∀ o i, waitingOp (.piece o i) t = waitingOp (.piece o i) s) : waitingWrite t = waitingWrite s := by
  rw [waitingWrite, waitingWrite, entries]
  congr 1
  funext e
  rw [offersWrites, offersWrites, isHead, isHead, head_congr entries, pieceWaits_congr (waiting _)]

theorem waitingRead_congr {s t : State} (slots : t.slots = s.slots)
    (waiting : ∀ o i, waitingOp (.piece o i) t = waitingOp (.piece o i) s) : waitingRead t = waitingRead s := by
  simp only [waitingRead, slotsByAge, ageOf, ownerCore, occupied, slot_congr slots, pieceWaits_congr (waiting _)]

theorem waitingWrite_of_nil {s : State} (h : s.postQueue = []) : waitingWrite s = none := by rw [waitingWrite, h]; rfl

theorem head_of_single {e : PostEntry} {s : State} (h : s.postQueue = [e]) : head e.core.requester s = some e := by
  rw [head, h, List.find?_cons_of_pos (by simp)]

theorem waitingWrite_of_single {e : PostEntry} {s : State} (h : s.postQueue = [e]) : waitingWrite s =
    if e.state = .ready ∨ e.state = .issued then (e.core.pieces.find? (pieceWaits e.ref s)).map fun p => (e, p)
    else none := by
  have headed : isHead e s = true := by simp [isHead, head_of_single h]
  rw [waitingWrite, h, List.findSome?_cons, List.findSome?_nil, offersWrites, headed]
  by_cases offers : e.state = .ready ∨ e.state = .issued
  · simp only [offers, if_true, Bool.and_true, Bool.or_eq_true, beq_iff_eq]
    cases e.core.pieces.find? (pieceWaits e.ref s) <;> rfl
  · simp [offers]

theorem occupied_of_empty {s : State} (h : ∀ n : SlotId, s.slot n = none) : occupied s = [] :=
  List.filter_eq_nil_iff.mpr fun n _ => by simp [h n]

theorem filter_finRange_eq (n : SlotId) : (List.finRange 8).filter (· == n) = [n] := by revert n; decide

theorem occupied_of_single {n : SlotId} {c : Slot} {s : State} (here : s.slot n = some c)
    (others : ∀ m, m ≠ n → s.slot m = none) : occupied s = [n] := by
  refine (List.filter_congr fun m _ => ?_).trans (filter_finRange_eq n)
  by_cases h : m = n
  · simp [h, here]
  · simp [h, others m h]

theorem waitingRead_of_empty {s : State} (h : ∀ n : SlotId, s.slot n = none) : waitingRead s = none := by
  rw [waitingRead, slotsByAge, occupied_of_empty h]
  rfl

theorem waitingRead_of_single {n : SlotId} {c : Slot} {s : State} (here : s.slot n = some c)
    (others : ∀ m, m ≠ n → s.slot m = none) : waitingRead s =
    if c.state = .reading then (c.core.pieces.find? (pieceWaits (.slot n) s)).map fun p => (n, c, p) else none := by
  have alone : slotsByAge s = [n] := by rw [slotsByAge, occupied_of_single here others]; rfl
  rw [waitingRead, alone, List.findSome?_cons, List.findSome?_nil]
  simp only [here, beq_iff_eq]
  by_cases reading : c.state = .reading
  · simp only [reading, if_true]
    cases c.core.pieces.find? (pieceWaits (.slot n) s) <;> rfl
  · simp [reading]

/-! ### Grants -/

theorem grantOnce_of_none_waiting {s : State} (write : waitingWrite s = none) (read : waitingRead s = none) :
    grantOnce s = none := by
  rw [grantOnce, write, read]
  cases freeTag .data s <;> rfl

theorem grantOnce_of_noneFree {s : State} (h : NoneFree .data s) : grantOnce s = none := by
  rw [grantOnce, freeTag_of_noneFree h]

theorem grantOnce_of_write {t : TagId} {e : PostEntry} {p : Piece} {s : State} (lowest : Lowest .data t s)
    (write : waitingWrite s = some (e, p)) (turn : waitingRead s = none ∨ s.lastGrant = .read) :
    grantOnce s = some (grantWrite t e p s) := by
  rw [grantOnce, freeTag_of_lowest lowest, write]
  rcases turn with read | last
  · rw [read]
  · cases waitingRead s with
    | none => rfl
    | some x => simp [last]

theorem grantOnce_of_read {t : TagId} {n : SlotId} {c : Slot} {p : Piece} {s : State} (lowest : Lowest .data t s)
    (read : waitingRead s = some (n, c, p)) (turn : waitingWrite s = none ∨ s.lastGrant = .write) :
    grantOnce s = some (grantRead t n c p s) := by
  rw [grantOnce, freeTag_of_lowest lowest, read]
  rcases turn with write | last
  · rw [write]
  · cases waitingWrite s with
    | none => rfl
    | some x => simp [last]

theorem grants_of_none {s : State} (n : Nat) (h : grantOnce s = none) : grants n s = s := by
  cases n with
  | zero => rfl
  | succ n => rw [grants, h]

theorem grants_of_one {s t : State} (n : Nat) (first : grantOnce s = some t) (last : grantOnce t = none) :
    grants (n + 1) s = t := by rw [grants, first]; exact grants_of_none n last

/-! ### The end of an event -/

/-- No walk request waits for an engine. -/
def NoneQueued (s : State) : Prop := ∀ w ∈ s.missQueue, w.walk.isSome = true

theorem startWalk_of_noneQueued {s : State} (h : NoneQueued s) (e : EngineId) : startWalk e s = s := by
  have none_found : s.missQueue.find? (·.walk.isNone) = none := List.find?_eq_none.mpr fun w mem => by
    rw [Option.isNone_iff_eq_none, ← Option.isSome_iff_ne_none.not_left]
    exact not_not.mpr (h w mem)
  rw [startWalk, none_found]
  exact ite_self s

theorem startWalks_of_noneQueued {s : State} (h : NoneQueued s) : startWalks s = s := by
  rw [startWalks, startWalk_of_noneQueued h, startWalk_of_noneQueued h]

theorem noneQueued_of_nil {s : State} (h : s.missQueue = []) : NoneQueued s := by
  rw [NoneQueued, h]
  exact fun _ mem => absurd mem List.not_mem_nil

theorem resetDue_of_going {s : State} (h : s.quiescing = false) : resetDue s = false := by
  rw [resetDue, h]
  rfl


theorem waitingLine_of_none {s : State} (h : ∀ p ∈ s.parked, p.waiting = true → ∀ k, p.op.owner ≠ some (.line k)) :
    waitingLine s = none := by
  have nil : (s.parked.filterMap fun p => if p.waiting then lineOf p.op else none) = [] := by
    refine List.filterMap_eq_nil_iff.mpr fun p mem => ?_
    by_cases waits : p.waiting = true
    · rw [if_pos waits, lineOf]
      split
      next k owner => exact absurd owner (h p mem waits k)
      next => rfl
    · exact if_neg waits
  rw [waitingLine, nil]
  rfl

theorem issueLine_of_noLineDue {s : State} (h : NoLineDue s) : issueLine s = s := by
  rcases h with none | ⟨j, js, v, jobs, -, working, stopped, unparked⟩
  · exact issueLine_of_no_jobs none
  · have due : newLineDue j v = false := by
      simp only [newLineDue, lineCount, Bool.and_eq_false_iff, decide_eq_false_iff_not]
      rcases stopped with failed | two | last
      · exact .inr (Option.isNone_eq_false_iff.mpr (Option.isSome_iff_ne_none.mpr failed))
      · exact .inl (.inr (by omega))
      · exact .inl (.inl (decide_eq_false (by omega)))
    rw [issueLine, jobs, working, waitingLine_of_none unparked, List.head?_cons]
    cases freeTag .validation s with
    | none => rfl
    | some t => exact if_neg (by simp [due])

theorem startJob_of_noLineDue {s : State} (h : NoLineDue s) : startJob s = s := by
  rcases h with none | ⟨j, js, v, jobs, running, -⟩
  · rw [startJob, none]
  · rw [startJob, jobs]
    exact if_pos running

theorem runValidation_of_noLineDue {s : State} (h : NoLineDue s) : runValidation s = s := by
  rw [runValidation, startJob_of_noLineDue h, issueLine_of_noLineDue h, issueLine_of_noLineDue h]

theorem offerTags_of_nothingWaits {s : State} (h : NothingWaits s) : offerTags s = s := by
  obtain ⟨going, walks, jobs, writes, reads⟩ := h
  rw [offerTags, startWalks_of_noneQueued walks, grants_of_none 12 (grantOnce_of_none_waiting writes reads),
    runValidation_of_noLineDue jobs, softResetTest_of_not_due (resetDue_of_going going)]

theorem offerTags_of_one_grant {s t : State} (walks : NoneQueued s) (first : grantOnce s = some t) (last : grantOnce t = none)
    (jobs : NoLineDue t) (going : t.quiescing = false) : offerTags s = t := by
  rw [offerTags, startWalks_of_noneQueued walks, grants_of_one 11 first last, runValidation_of_noLineDue jobs,
    softResetTest_of_not_due (resetDue_of_going going)]

theorem offerTags_of_no_grant {s : State} (walks : NoneQueued s) (none : grantOnce s = none) (jobs : NoLineDue s)
    (going : s.quiescing = false) : offerTags s = s := by
  rw [offerTags, startWalks_of_noneQueued walks, grants_of_none 12 none, runValidation_of_noLineDue jobs,
    softResetTest_of_not_due (resetDue_of_going going)]

/-- What decides what waits stands: the queues, the slots, the validation engine, the waiting operations and quiescing. -/
structure SameOffers (s t : State) : Prop where
  quiescing : t.quiescing = s.quiescing
  missQueue : t.missQueue = s.missQueue
  jobs : t.jobs = s.jobs
  validation : t.validation = s.validation
  postQueue : t.postQueue = s.postQueue
  slots : t.slots = s.slots
  waiting : t.parked.filter (·.waiting) = s.parked.filter (·.waiting)

theorem noLineDue_congr {s t : State} (h : SameOffers s t) (due : NoLineDue s) : NoLineDue t := by
  have waits (p : Parked) : p ∈ t.parked ∧ p.waiting = true ↔ p ∈ s.parked ∧ p.waiting = true := by
    rw [← List.mem_filter, ← List.mem_filter, h.waiting]
  rcases due with none | ⟨j, js, v, jobs, running, working, stopped, unparked⟩
  · exact .inl (h.jobs.trans none)
  · refine .inr ⟨j, js, v, h.jobs.trans jobs, running, h.validation.trans working, stopped, fun p mem waiting => ?_⟩
    exact unparked p ((waits p).mp ⟨mem, waiting⟩).1 waiting

theorem nothingWaits_congr {s t : State} (h : SameOffers s t) (quiet : NothingWaits s) : NothingWaits t where
  going := h.quiescing.trans quiet.going
  walks := by rw [h.missQueue]; exact quiet.walks
  jobs := noLineDue_congr h quiet.jobs
  writes := (waitingWrite_congr h.postQueue fun _ _ => waitingOp_congr h.waiting _).trans quiet.writes
  reads := (waitingRead_congr h.slots fun _ _ => waitingOp_congr h.waiting _).trans quiet.reads

/-! ### Responses -/

/-- The command of a response is taken with what it makes of a running operation. -/
theorem exec_response {i : Instr} {t : TagId} {lanes : Lanes} {code : Nat} {s : State} (up : s.resetLow = false)
    (mem : i ∈ responses t lanes code) : ∃ act, exec i s = .next (takeResponse t act (unmoved s)) := by
  simp only [responses, List.mem_cons, List.not_mem_nil, or_false] at mem
  rcases mem with rfl | rfl | rfl
  · exact ⟨_, next_congr (if_neg (by simp [up]))⟩
  · exact ⟨_, next_congr (if_neg (by simp [up]))⟩
  · exact ⟨_, next_congr (if_neg (by simp [up]))⟩

theorem takeResponse_of_free {t : TagId} {act : Op → State → State} {s : State} (h : s.tag t = .free) :
    takeResponse t act s = post (strayReport t) s := by rw [takeResponse, h]

theorem takeResponse_of_quarantined {t : TagId} {act : Op → State → State} {s : State} {f : ReportFields}
    (h : s.tag t = .quarantined f) : takeResponse t act s = offerTags (post (lateReport t f) (setTag t .free s)) := by
  rw [takeResponse, h]

theorem takeResponse_of_cancelled {t : TagId} {act : Op → State → State} {s : State} {op : Op}
    (h : s.tag t = .outstanding op) (cancelled : op.cancelled = true) :
    takeResponse t act s = offerTags (endCancelled op (setTag t .free s)) := by
  rw [takeResponse, h]
  exact congrArg offerTags (if_pos cancelled)

theorem takeResponse_of_running {t : TagId} {act : Op → State → State} {s : State} {op : Op}
    (h : s.tag t = .outstanding op) (running : op.cancelled = false) :
    takeResponse t act s = offerTags (act op (setTag t .free s)) := by
  rw [takeResponse, h]
  exact congrArg offerTags (if_neg (by simp [running]))

theorem expireTag_of_cancelled {t : TagId} {s : State} {op : Op} (h : s.tag t = .outstanding op)
    (cancelled : op.cancelled = true) :
    expireTag t s = offerTags (endCancelled op (setTag t (.quarantined op.fields) s)) := by
  rw [expireTag, h]
  exact congrArg offerTags (if_pos cancelled)

theorem expireTag_of_running {t : TagId} {s : State} {op : Op} (h : s.tag t = .outstanding op)
    (running : op.cancelled = false) :
    expireTag t s = offerTags (opFailed op .responseTimeout t (setTag t (.quarantined op.fields) s)) := by
  rw [expireTag, h]
  exact congrArg offerTags (if_neg (by simp [running]))

theorem endCancelled_of_gone {op : Op} (gone : op.owner = none) (s : State) : endCancelled op s = s := by
  rw [endCancelled, gone]

theorem sameOffers_setTag_unmoved (t : TagId) (x : TagState) (s : State) : SameOffers s (setTag t x (unmoved s)) :=
  ⟨rfl, rfl, rfl, rfl, rfl, rfl, rfl⟩

theorem sameOffers_post (p : Report) (s : State) : SameOffers s (post p s) :=
  ⟨by simp, by simp, by simp, by simp, by simp, by simp, by simp⟩

/-- Settles O18: by the state of the tag; no owner is told, and nothing waits for the tag that is freed. -/
theorem responsesWithoutAnOwner : Obligations.ResponsesWithoutAnOwner := by
  intro t lanes code s up
  have quiet (x : TagState) (h : NothingWaits s) := nothingWaits_congr (sameOffers_setTag_unmoved t x s) h
  have ended {op : Op} (x : TagState) (gone : op.owner = none) (h : NothingWaits s) :
      offerTags (endCancelled op (setTag t x (unmoved s))) = setTag t x (unmoved s) := by
    rw [endCancelled_of_gone gone, offerTags_of_nothingWaits (quiet x h)]
  refine ⟨fun i mem => ?_, fun op here cancelled gone calm => ?_, fun not_running => ?_⟩
  · obtain ⟨act, run⟩ := exec_response up mem
    refine ⟨fun free => ?_, fun f late calm => ?_, fun op here cancelled gone calm => ?_⟩
    · exact run.trans (next_congr (takeResponse_of_free free))
    · refine run.trans (next_congr ((takeResponse_of_quarantined (s := unmoved s) late).trans ?_))
      exact offerTags_of_nothingWaits (nothingWaits_congr (sameOffers_post _ _) (quiet .free calm))
    · exact run.trans (next_congr ((takeResponse_of_cancelled (s := unmoved s) here cancelled).trans (ended .free gone calm)))
  · exact next_congr ((expireTag_of_cancelled (s := unmoved s) here cancelled).trans (ended _ gone calm))
  · refine next_congr (?_ : expireTag t (unmoved s) = unmoved s)
    rw [expireTag]
    split
    next op here => exact absurd here (not_running op)
    next => rfl

/-- Settles O19: the operation joins those in BACKOFF, none of which waits for the tag that is freed. -/
theorem busySendsAnOperationToBackoff : Obligations.BusySendsAnOperationToBackoff := by
  intro t op s up here running budget calm
  have within : ¬(s.settings.retryBudget ≠ 0 ∧ s.settings.retryBudget < op.retries + 1) := by omega
  have parks : opBusy t op (setTag t .free (unmoved s)) =
      park { op with retries := op.retries + 1 } (setTag t .free (unmoved s)) := if_neg within
  have offers : SameOffers s (park { op with retries := op.retries + 1 } (setTag t .free (unmoved s))) :=
    ⟨rfl, rfl, rfl, rfl, rfl, rfl, by simp [park, unmoved]⟩
  have run : exec (.responseBusy t) s = .next (takeResponse t (opBusy t) (unmoved s)) :=
    next_congr (if_neg (by simp [up]))
  rw [run, takeResponse_of_running (s := unmoved s) here running, parks,
    offerTags_of_nothingWaits (nothingWaits_congr offers calm)]
  rfl

end Sys2Proof.Machine
end

section
/-! SUPPORT and CLAIM. The only owner of a quiet machine: what each operation makes of the one post entry or the one slot, and
one grant of the arbiter; with pass-through requests on an idle bridge, the end of a backoff and the arbiter's turn. -/

namespace Sys2Proof.Machine

open Sys2Proof.Claims

/-! ### One piece of a list -/

theorem map_at_index {before after : List Piece} {p : Piece} (distinct : ∀ y ∈ before ++ after, y.index ≠ p.index)
    (f : Piece → Piece) : (before ++ p :: after).map (fun q => if q.index = p.index then f q else q) =
      before ++ f p :: after := by
  have same (l : List Piece) (h : ∀ y ∈ l, y.index ≠ p.index) :
      l.map (fun q => if q.index = p.index then f q else q) = l :=
    (List.map_congr_left fun y mem => if_neg (h y mem)).trans (List.map_id l)
  rw [List.map_append, List.map_cons, if_pos rfl, same before fun y mem => distinct y (List.mem_append_left _ mem),
    same after fun y mem => distinct y (List.mem_append_right _ mem)]

theorem find?_at_index {before after : List Piece} {p : Piece} (distinct : ∀ y ∈ before ++ after, y.index ≠ p.index) :
    (before ++ p :: after).find? (·.index == p.index) = some p := by
  rw [List.find?_append, List.find?_eq_none.mpr fun y mem => ?_, Option.none_or, List.find?_cons_of_pos (by simp)]
  simpa using distinct y (List.mem_append_left _ mem)

/-! ### The only post entry -/

section
variable {e : PostEntry} {s : State}

theorem setPostQueue_self (h : s.postQueue = [e]) : setPostQueue [e] s = s := by rw [← h]; rfl

theorem updEntry_of_single (h : s.postQueue = [e]) (f : PostEntry → PostEntry) :
    updEntry e.core.requester e.sequence f s = setPostQueue [f e] s := by simp [updEntry, h, PostEntry.named]

theorem updCore_of_single (h : s.postQueue = [e]) (f : OwnerCore → OwnerCore) :
    updCore e.ref f s = setPostQueue [{ e with core := f e.core }] s := updEntry_of_single h _

theorem ownerCore_of_single (h : s.postQueue = [e]) : ownerCore e.ref s = some e.core := by
  simp [ownerCore, PostEntry.ref, findEntry, h, PostEntry.named]

/-- The entry with one of its pieces in another state. -/
def PostEntry.withPieces (e : PostEntry) (ps : List Piece) : PostEntry := { e with core := { e.core with pieces := ps } }

theorem updPiece_of_single {before after : List Piece} {p : Piece} (h : s.postQueue = [e])
    (pieces : e.core.pieces = before ++ p :: after) (distinct : ∀ y ∈ before ++ after, y.index ≠ p.index)
    (f : Piece → Piece) :
    updPiece e.ref p.index f s = setPostQueue [e.withPieces (before ++ f p :: after)] s := by
  rw [updPiece, updCore_of_single h, pieces, map_at_index distinct, PostEntry.withPieces]

theorem makeEligible_of_single (h : s.postQueue = [e]) : makeEligible e.core.requester s =
    setPostQueue [if e.state = .ready then e.eligible else e] s := by
  rw [makeEligible, head_of_single h]
  by_cases ready : e.state = .ready
  · simp only [ready, beq_self_eq_true, if_true]
    exact updEntry_of_single h _
  · simp only [ready, if_false, setPostQueue_self h, beq_iff_eq]

theorem leaveAll_of_may_leave (h : s.postQueue = [e]) (working : e.state ≠ .ready) (may : e.mayLeave = true) :
    leaveAll e.core.requester s = leave e s := by
  have still : makeEligible e.core.requester s = s := by
    rw [makeEligible_of_single h, if_neg working, setPostQueue_self h]
  rw [leaveAll, h, List.length_singleton, leaveCascade, still, head_of_single h]
  exact if_pos may

theorem leaveAll_of_may_not_leave (h : s.postQueue = [e]) (working : e.state ≠ .ready) (may_not : e.mayLeave = false) :
    leaveAll e.core.requester s = s := by
  have still : makeEligible e.core.requester s = s := by
    rw [makeEligible_of_single h, if_neg working, setPostQueue_self h]
  rw [leaveAll, h, List.length_singleton, leaveCascade, still, head_of_single h]
  exact if_neg (by simp [may_not])

theorem eligible_ref (e : PostEntry) : e.eligible.core.requester = e.core.requester ∧ e.eligible.sequence = e.sequence := by
  unfold PostEntry.eligible
  dsimp only
  split <;> exact ⟨rfl, rfl⟩

theorem leaveAll_of_ready (h : s.postQueue = [e]) (ready : e.state = .ready) : leaveAll e.core.requester s =
    if e.eligible.mayLeave then leave e.eligible (setPostQueue [e.eligible] s) else setPostQueue [e.eligible] s := by
  have now : makeEligible e.core.requester s = setPostQueue [e.eligible] s := by
    rw [makeEligible_of_single h, if_pos ready]
  have headed : head e.core.requester (setPostQueue [e.eligible] s) = some e.eligible := by
    rw [← (eligible_ref e).1]
    exact head_of_single rfl
  rw [leaveAll, h, List.length_singleton, leaveCascade, now, headed]
  rfl

/-- An entry with an operation still to come is READY without being DONE. -/
theorem eligible_of_pending {p : Piece} (mem : p ∈ e.core.pieces) (pending : p.state = .pending)
    (memory : p.kind ≠ .zero) : e.eligible = e.withPieces (e.core.pieces.map Piece.writeZero) := by
  have kept : p.writeZero = p := if_neg (by simp [memory])
  have open_piece : (e.withPieces (e.core.pieces.map Piece.writeZero)).allWritten = false := by
    refine List.all_eq_false.mpr ⟨p, ?_, by simp [pending]⟩
    exact kept ▸ List.mem_map_of_mem mem
  exact if_neg (by rw [← PostEntry.withPieces, open_piece]; exact Bool.false_ne_true)

end

/-! ### The only slot -/

section
variable {n : SlotId} {c : Slot} {s : State}

theorem setSlot_setSlot (n : SlotId) (x y : Option Slot) (s : State) : setSlot n x (setSlot n y s) = setSlot n x s := by
  simp [setSlot]

theorem setSlot_slot_self (n : SlotId) (x : Option Slot) (s : State) : (setSlot n x s).slot n = x :=
  (setSlot_slot n n x s).trans (if_pos rfl)

theorem setSlot_self (h : s.slot n = some c) : setSlot n (some c) s = s := by
  rw [← h, setSlot, State.slot, Vector.set_getElem_self]

theorem updSlot_of_slot (h : s.slot n = some c) (f : Slot → Slot) : updSlot n f s = setSlot n (some (f c)) s := by
  rw [updSlot, h, Option.map_some]

theorem updCore_of_slot (h : s.slot n = some c) (f : OwnerCore → OwnerCore) :
    updCore (.slot n) f s = setSlot n (some { c with core := f c.core }) s := updSlot_of_slot h _

theorem ownerCore_of_slot (h : s.slot n = some c) : ownerCore (.slot n) s = some c.core := by
  rw [ownerCore, h, Option.map_some]

/-- The slot with its pieces in other states. -/
def Slot.withPieces (c : Slot) (ps : List Piece) : Slot := { c with core := { c.core with pieces := ps } }

theorem updPiece_of_slot {before after : List Piece} {p : Piece} (h : s.slot n = some c)
    (pieces : c.core.pieces = before ++ p :: after) (distinct : ∀ y ∈ before ++ after, y.index ≠ p.index)
    (f : Piece → Piece) :
    updPiece (.slot n) p.index f s = setSlot n (some (c.withPieces (before ++ f p :: after))) s := by
  rw [updPiece, updCore_of_slot h, pieces, map_at_index distinct, Slot.withPieces]

theorem becomeReady_of_open (h : s.slot n = some c) (not_all : c.allRead = false) : becomeReady n s = s := by
  rw [becomeReady, h]
  exact if_neg (by simp [not_all])

theorem becomeReady_of_all_read (h : s.slot n = some c) (reading : c.state = .reading) (all : c.allRead = true) :
    becomeReady n s = setSlot n (some { c with
      state := .ready, data := c.core.pieces.flatMap Piece.bytes, timer := some s.settings.discardInterval }) s := by
  rw [becomeReady, h]
  exact if_pos (by simp [reading, all])

/-- An ORDERED slot whose fence is met begins to read. -/
theorem startReading_of_met (h : s.slot n = some c) (ordered : c.state = .ordered) (met : c.fenceMet = true) :
    startReading n s = becomeReady n (setSlot n (some { c with
      state := .reading, core := { c.core with pieces := c.core.pieces.map Piece.readZero } }) s) := by
  rw [startReading, h]
  exact if_pos (by simp [ordered, met])

theorem finishTranslation_of_slot (h : s.slot n = some c) : finishTranslation (.slot n) s =
    startReading n (setSlot n (some { c with
      state := .ordered
      core := { c.core with generation := c.core.progress.map (·.generation), progress := none } }) s) := by
  have unfolded : finishTranslation (.slot n) s = startReading n (updSlot n (fun c => { c with state := .ordered })
      (updCore (.slot n) (fun c => { c with generation := c.progress.map (·.generation), progress := none }) s)) := rfl
  rw [unfolded, updCore_of_slot h, updSlot_of_slot (setSlot_slot_self _ _ _), setSlot_setSlot]

end

/-! ### Pieces that wait -/

theorem pieceWaits_of_pending {p : Piece} (h : p.state = .pending) (o : OwnerRef) (s : State) :
    pieceWaits o s p = p.target.isSome := by rw [pieceWaits, h]

theorem pieceWaits_of_issued {p : Piece} (h : p.state = .issued) (o : OwnerRef) (s : State) :
    pieceWaits o s p = (waitingOp (.piece o p.index) s).isSome := by rw [pieceWaits, h]

theorem pieceWaits_of_over {p : Piece} (pending : p.state ≠ .pending) (issued : p.state ≠ .issued) (o : OwnerRef)
    (s : State) : pieceWaits o s p = false := by
  rw [pieceWaits]
  split
  next h => exact absurd h pending
  next h => exact absurd h issued
  next => rfl

theorem waitingWrite_of_none_waits {e : PostEntry} {s : State} (h : s.postQueue = [e])
    (still : e.state = .ready ∨ e.state = .issued → ∀ p ∈ e.core.pieces, pieceWaits e.ref s p = false) :
    waitingWrite s = none := by
  rw [waitingWrite_of_single h]
  split_ifs with offers
  · rw [List.find?_eq_none.mpr fun p mem => by simp [still offers p mem]]
    rfl
  · rfl

theorem waitingRead_of_none_waits {n : SlotId} {c : Slot} {s : State} (here : s.slot n = some c)
    (others : ∀ m, m ≠ n → s.slot m = none)
    (still : c.state = .reading → ∀ p ∈ c.core.pieces, pieceWaits (.slot n) s p = false) : waitingRead s = none := by
  rw [waitingRead_of_single here others]
  split_ifs with reading
  · rw [List.find?_eq_none.mpr fun p mem => by simp [still reading p mem]]
    rfl
  · rfl

theorem waitingWrite_of_one_piece {e : PostEntry} {p : Piece} {s : State} (h : s.postQueue = [e])
    (offers : e.state = .ready ∨ e.state = .issued) (pieces : e.core.pieces = [p]) (waits : pieceWaits e.ref s p = true) :
    waitingWrite s = some (e, p) := by
  rw [waitingWrite_of_single h, if_pos offers, pieces, List.find?_cons_of_pos waits]
  rfl

theorem waitingRead_of_one_piece {n : SlotId} {c : Slot} {p : Piece} {s : State} (here : s.slot n = some c)
    (others : ∀ m, m ≠ n → s.slot m = none) (reading : c.state = .reading) (pieces : c.core.pieces = [p])
    (waits : pieceWaits (.slot n) s p = true) : waitingRead s = some (n, c, p) := by
  rw [waitingRead_of_single here others, if_pos reading, pieces, List.find?_cons_of_pos waits]
  rfl

/-! ### One grant -/

theorem waitingOp_of_parked_nil {s : State} (h : s.parked = []) (o : OpName) : waitingOp o s = none := by
  rw [waitingOp, h]
  rfl

/-- The first PENDING piece of the only entry goes to memory. -/
theorem grantWrite_of_pending {e : PostEntry} {p : Piece} {s : State} (t : TagId) (h : s.postQueue = [e])
    (pieces : e.core.pieces = [p]) (fresh : s.parked = []) :
    grantWrite t e p s = issue t (writeOp e p) { s with
      lastGrant := .write
      postQueue := [{ e with state := .issued, core := { e.core with pieces := [{ p with state := .issued }] } }] } := by
  have none_waits : waitingOp (.piece e.ref p.index) { s with lastGrant := .write } = none := waitingOp_of_parked_nil fresh _
  rw [grantWrite]
  simp only [none_waits]
  rw [updPiece_of_single (before := []) (after := []) (s := { s with lastGrant := .write }) h pieces (by simp)]
  exact congrArg (issue t (writeOp e p)) (updEntry_of_single (e := e.withPieces [{ p with state := .issued }]) rfl _)

/-- The PENDING piece of a slot goes to memory. -/
theorem grantRead_of_pending {n : SlotId} {c : Slot} {p : Piece} {s : State} (t : TagId) (h : s.slot n = some c)
    (pieces : c.core.pieces = [p]) (fresh : s.parked = []) :
    grantRead t n c p s = issue t (readOp n c p)
      (setSlot n (some { c with core := { c.core with pieces := [{ p with state := .issued }] } })
        { s with lastGrant := .read }) := by
  have none_waits : waitingOp (.piece (.slot n) p.index) { s with lastGrant := .read } = none :=
    waitingOp_of_parked_nil fresh _
  rw [grantRead]
  simp only [none_waits]
  rw [updPiece_of_slot (before := []) (after := []) (s := { s with lastGrant := .read }) h pieces (by simp)]
  rfl

/-- The piece whose backoff has ended goes to memory again. -/
theorem grantWrite_of_waiting {e : PostEntry} {p : Piece} {op : Op} {s : State} (t : TagId)
    (waits : waitingOp (.piece e.ref p.index) s = some op) :
    grantWrite t e p s = issue t op (unpark (.piece e.ref p.index) { s with lastGrant := .write }) := by
  have waits' : waitingOp (.piece e.ref p.index) { s with lastGrant := .write } = some op := waits
  rw [grantWrite]
  simp only [waits']

theorem grantRead_of_waiting {n : SlotId} {c : Slot} {p : Piece} {op : Op} {s : State} (t : TagId)
    (waits : waitingOp (.piece (.slot n) p.index) s = some op) :
    grantRead t n c p s = issue t op (unpark (.piece (.slot n) p.index) { s with lastGrant := .read }) := by
  have waits' : waitingOp (.piece (.slot n) p.index) { s with lastGrant := .read } = some op := waits
  rw [grantRead]
  simp only [waits']

theorem waitingWrite_issue (t : TagId) (op : Op) (s : State) : waitingWrite (issue t op s) = waitingWrite s :=
  waitingWrite_congr rfl fun _ _ => rfl

theorem waitingRead_issue (t : TagId) (op : Op) (s : State) : waitingRead (issue t op s) = waitingRead s :=
  waitingRead_congr rfl fun _ _ => rfl

/-- Once every piece of the only entry has been sent there is no further grant. -/
theorem grantOnce_of_sent_write {e : PostEntry} {s : State} (t : TagId) (op : Op) (h : s.postQueue = [e])
    (sent : ∀ p ∈ e.core.pieces, p.state = .issued) (fresh : s.parked = []) (empty : ∀ n : SlotId, s.slot n = none) :
    grantOnce (issue t op s) = none := by
  refine grantOnce_of_none_waiting ?_ ?_
  · rw [waitingWrite_issue]
    refine waitingWrite_of_none_waits h fun _ p mem => ?_
    rw [pieceWaits_of_issued (sent p mem), waitingOp_of_parked_nil fresh]
    rfl
  · rw [waitingRead_issue, waitingRead_of_empty empty]

/-- Once every piece of the only slot has been sent there is no further grant. -/
theorem grantOnce_of_sent_read {n : SlotId} {c : Slot} {s : State} (t : TagId) (op : Op) (here : s.slot n = some c)
    (others : ∀ m, m ≠ n → s.slot m = none) (sent : ∀ p ∈ c.core.pieces, p.state = .issued) (fresh : s.parked = [])
    (empty : s.postQueue = []) : grantOnce (issue t op s) = none := by
  refine grantOnce_of_none_waiting ?_ ?_
  · rw [waitingWrite_issue, waitingWrite_of_nil empty]
  · rw [waitingRead_issue]
    refine waitingRead_of_none_waits here others fun _ p mem => ?_
    rw [pieceWaits_of_issued (sent p mem), waitingOp_of_parked_nil fresh]
    rfl

/-! ### Pass-through requests on an idle bridge -/

theorem overlapping_of_empty {s : State} (h : ∀ n : SlotId, s.slot n = none) (r : ReqId) (a : Addr) (len : Nat) :
    overlapping r a len s = [] := by rw [overlapping, occupied_of_empty h]; rfl

/-- On a bridge without slots a taken write drops none, and its translation begins. -/
theorem takeWrite_of_no_slots {s : State} (h : ∀ n : SlotId, s.slot n = none) (r : ReqId) (a : Addr) (len : Nat)
    (data : List Byte) (p : Option Place) : takeWrite r a len data p s =
      offerTags (leaveAll r (beginTranslation (.entry r ((s.req r).taken + 1)) (writeTaken r a len data p s))) := by
  have none_dropped : freeSlots (overlapping r a len (writeTaken r a len data p s)) (writeTaken r a len data p s) =
      writeTaken r a len data p s := by
    rw [overlapping_of_empty fun n => (writeTaken_slot r a len data p s n).trans (h n)]
    rfl
  have none_left : reofferIfLeft (writeTaken r a len data p s) (writeTaken r a len data p s) =
      writeTaken r a len data p s := if_neg (lt_irrefl _)
  have unfolded : takeWrite r a len data p s =
      offerTags (leaveAll r (beginTranslation (.entry r ((s.req r).taken + 1))
        (reofferIfLeft (writeTaken r a len data p s)
          (freeSlots (overlapping r a len (writeTaken r a len data p s)) (writeTaken r a len data p s))))) := rfl
  rw [unfolded, none_dropped, none_left]

theorem finishTranslation_of_single {e : PostEntry} {s : State} (h : s.postQueue = [e]) :
    finishTranslation e.ref s = setPostQueue [{ e with
      state := .ready
      core := { e.core with generation := e.core.progress.map (·.generation), progress := none } }] s := by
  have unfolded : finishTranslation e.ref s = updEntry e.core.requester e.sequence (fun e => { e with state := .ready })
      (updCore e.ref (fun c => { c with generation := c.progress.map (·.generation), progress := none }) s) := rfl
  rw [unfolded, updCore_of_single h]
  exact updEntry_of_single (e := { e with core := { e.core with
    generation := e.core.progress.map (·.generation), progress := none } }) rfl _

/-- A pass-through owner has its one piece as soon as its translation begins. -/
theorem beginTranslation_of_pass {o : OwnerRef} {c : OwnerCore} {s : State} (h : ownerCore o s = some c)
    (pass : c.place = none) : beginTranslation o s =
      finishTranslation o (updCore o (fun c => { c with pieces := [passPiece c], progress := none }) s) := by
  rw [beginTranslation, h]
  simp only [pass]

theorem beginTranslation_of_pass_entry {e : PostEntry} {s : State} (h : s.postQueue = [e]) (pass : e.core.place = none) :
    beginTranslation e.ref s = setPostQueue [{ e with
      state := .ready
      core := { e.core with pieces := [passPiece e.core], progress := none, generation := none } }] s := by
  let begun : PostEntry := { e with core := { e.core with pieces := [passPiece e.core], progress := none } }
  rw [beginTranslation_of_pass (ownerCore_of_single h) pass, updCore_of_single h]
  exact finishTranslation_of_single (e := begun) (s := setPostQueue [begun] s) rfl

/-- Settles O12: the entry is READY at once; then the lowest FREE data tag carries its one piece, if there is one. -/
theorem passThroughWriteGoesToMemory : Obligations.PassThroughWriteGoesToMemory := by
  intro r a len lanes en s idle admitted room q base
  have empty : s.postQueue = [] := idle.entries
  have room' : writeRoom r (beginEvent s) = true := (writeRoom_iff r _).mpr ⟨by simp [empty], room⟩
  let ready : PostEntry := passEntry r a len.toNat lanes .pending .ready s
  let taken : State := { base with postQueue := [ready] }
  have begun : beginTranslation (.entry r q) (writeTaken r a len.toNat (bytesOfLanes a len.toNat lanes) none (beginEvent s)) =
      taken := by
    have entries : (writeTaken r a len.toNat (bytesOfLanes a len.toNat lanes) none (beginEvent s)).postQueue =
        [newEntry r a len.toNat (bytesOfLanes a len.toNat lanes) none q s.nextAge] :=
      congrArg (· ++ [newEntry r a len.toNat (bytesOfLanes a len.toNat lanes) none q s.nextAge]) empty
    exact beginTranslation_of_pass_entry entries rfl
  have stays : leaveAll r taken = taken := by
    have eligible : ready.eligible = ready := eligible_of_pending (List.mem_singleton_self _) rfl ExtentKind.noConfusion
    have left := leaveAll_of_ready (e := ready) (s := taken) rfl rfl
    rw [eligible] at left
    exact left
  have run : exec (.write r a len lanes en) s = .next (offerTags taken) := by
    rw [exec_write_of_admitted lanes en admitted, writeDecoded, if_pos room',
      takeWrite_of_no_slots (s := beginEvent s) idle.slots]
    exact next_congr (congrArg offerTags ((congrArg (leaveAll r) begun).trans stays))
  have walks (t : State) (h : t.missQueue = s.missQueue) : NoneQueued t := noneQueued_of_nil (h.trans idle.misses)
  have read : waitingRead taken = none := waitingRead_of_empty idle.slots
  have write : waitingWrite taken = some (ready, wholePiece a len.toNat .pending) :=
    waitingWrite_of_one_piece rfl (.inl rfl) rfl rfl
  refine ⟨fun t lowest => ?_, fun none_free => ?_⟩
  · have granted := grantWrite_of_pending (e := ready) (s := taken) (p := wholePiece a len.toNat .pending) t rfl rfl idle.parked
    have sent := grantOnce_of_write (s := taken) lowest write (.inl read)
    rw [granted] at sent
    have last := grantOnce_of_sent_write (e := { ready with
      state := .issued, core := { ready.core with pieces := [wholePiece a len.toNat .issued] } }) t
      (writeOp ready (wholePiece a len.toNat .pending))
      (s := { taken with lastGrant := .write, postQueue := [passEntry r a len.toNat lanes .issued .issued s] })
      rfl (fun p mem => by rw [List.mem_singleton.mp mem]; rfl) idle.parked idle.slots
    refine run.trans (next_congr ?_)
    rw [offerTags_of_one_grant (s := taken) (walks _ rfl) sent last (.inl idle.jobs) idle.going]
    have whole : (ready.data.drop 0).take len.toNat = bytesOfLanes a len.toNat lanes :=
      List.take_of_length_le (le_of_eq (bytesOfLanes_length a len.toNat lanes))
    refine congrArg (issue t · _) ?_
    rw [writeOp]
    exact congrArg (fun d => { (writeOp ready (wholePiece a len.toNat .pending)) with data := d }) whole
  · exact run.trans (next_congr (offerTags_of_no_grant (s := taken) (walks _ rfl) (grantOnce_of_noneFree none_free)
      (.inl idle.jobs) idle.going))

theorem beginTranslation_of_pass_slot {n : SlotId} {c : Slot} {s : State} (h : s.slot n = some c)
    (pass : c.core.place = none) (met : c.fenceMet = true) :
    beginTranslation (.slot n) s = setSlot n (some { c with
      state := .reading
      core := { c.core with pieces := [passPiece c.core], progress := none, generation := none } }) s := by
  rw [beginTranslation_of_pass (ownerCore_of_slot h) pass, updCore_of_slot h,
    finishTranslation_of_slot (setSlot_slot_self _ _ _), setSlot_setSlot]
  refine (startReading_of_met (setSlot_slot_self _ _ _) rfl (by exact met)).trans ?_
  rw [setSlot_setSlot]
  exact becomeReady_of_open (setSlot_slot_self _ _ _) rfl

/-- Settles O16: the slot is READING at once, and its one piece is granted the lowest FREE data tag. -/
theorem passThroughReadIsIssued : Obligations.PassThroughReadIsIssued := by
  intro r a len t s idle admitted limit unwritten lowest
  have room : ReadRoom r s := ⟨⟨0, idle.slots 0⟩, limit⟩
  have unmatched : Unmatched r a len.toNat s := fun n c held => absurd held (by simp [idle.slots n])
  have found : emptySlot s = some 0 :=
    find?_finRange_eq_some (by simp [idle.slots 0]) fun u lower => absurd lower (Nat.not_lt_zero _)
  let c : Slot :=
    { core := { requester := r, address := a, length := len.toNat, place := none
                pieces := [wholePiece a len.toNat .pending], age := s.nextAge }
      fence := (s.req r).taken, fenceMet := true, state := .reading }
  let o : State := readOpened 0 r a len.toNat none (beginEvent s)
  have opened : beginTranslation (.slot 0) o = setSlot 0 (some c) o := by
    have here : o.slot 0 = some (newSlot r a len.toNat none (beginEvent s)) :=
      (addSlot_slot _ _ _ _).trans (if_pos rfl)
    have met : (newSlot r a len.toNat none (beginEvent s)).fenceMet = true := beq_iff_eq.mpr unwritten
    rw [beginTranslation_of_pass_slot here rfl met]
    exact congrArg (fun b => setSlot 0 (some { c with fenceMet := b }) o) met
  let b : State := updReq r (fun x => { x with openSlots := x.openSlots + 1 }) { retried s with nextAge := s.nextAge + 1 }
  let u : State := setSlot 0 (some c) b
  have commuted : o = setSlot 0 (some (newSlot r a len.toNat none (beginEvent s))) b := rfl
  have begun : beginTranslation (.slot 0) o = u := by
    rw [opened, commuted]
    exact setSlot_setSlot _ _ _ _
  have here : u.slot 0 = some c := setSlot_slot_self _ _ _
  have others (m : SlotId) (h : m ≠ 0) : u.slot m = none := (setSlot_slot _ _ _ _).trans ((if_neg h).trans (idle.slots m))
  have read := waitingRead_of_one_piece here others rfl rfl rfl
  have sent := grantOnce_of_read (s := u) (t := t) lowest read (.inl (waitingWrite_of_nil idle.entries))
  let flown : Slot := { c with core := { c.core with pieces := [wholePiece a len.toNat .issued] } }
  have flies := grantRead_of_pending t here rfl idle.parked
  have gone : setSlot 0 (some flown) { u with lastGrant := .read } = setSlot 0 (some flown) { b with lastGrant := .read } :=
    setSlot_setSlot 0 (some flown) (some c) { b with lastGrant := .read }
  have last := grantOnce_of_sent_read (s := setSlot 0 (some flown) { b with lastGrant := .read }) t
    (readOp 0 c (wholePiece a len.toNat .pending)) (setSlot_slot_self _ _ _)
    (fun m h => (setSlot_slot _ _ _ _).trans ((if_neg h).trans (idle.slots m)))
    (fun p mem => by rw [List.mem_singleton.mp mem]; rfl) idle.parked idle.entries
  have run : exec (.read r a len) s = .next (offerTags (beginTranslation (.slot 0) o)) :=
    (exec_read_of_room admitted unmatched room found).trans (next_congr (openSlot_eq _ _ _ _ _ _))
  rw [flies.trans (congrArg (issue t _) gone)] at sent
  have still : b.jobs = [] := idle.jobs
  have going : b.quiescing = false := idle.going
  have granted := offerTags_of_one_grant (s := u) (noneQueued_of_nil idle.misses) sent last (.inl (by simp [still]))
    (by simp [going])
  exact run.trans (next_congr ((congrArg offerTags begun).trans granted))

end Sys2Proof.Machine
end

section
/-! SUPPORT and CLAIM. BACKOFF_END (R141, R142, R146) and ARBITER_GRANT (R142): an operation that waits is issued again under
the lowest FREE tag of its class, and the arbiter takes the kinds in turn. -/

namespace Sys2Proof.Machine

open Sys2Proof.Claims

/-! ### An operation whose backoff has ended -/

/-- The one operation in BACKOFF waits for a tag now. -/
def awaiting (op : Op) (s : State) : State := { unmoved s with parked := [{ op := op, waiting := true }] }

theorem waitingOp_of_awaiting {o : OpName} {op : Op} (owner : op.owner = some o) (s : State) :
    waitingOp o (awaiting op s) = some op := by simp [waitingOp, awaiting, owner]

theorem waitingOp_of_awaiting_other {o o' : OpName} {op : Op} (owner : op.owner = some o) (other : o ≠ o') (s : State) :
    waitingOp o' (awaiting op s) = none := by simp [waitingOp, awaiting, owner, other]

/-- Nothing is in BACKOFF or waits for a tag. -/
def unparked (s : State) : State := { unmoved s with parked := [] }

theorem unpark_awaiting {o : OpName} {op : Op} (owner : op.owner = some o) (s : State) :
    unpark o (awaiting op s) = unparked s := by simp [unpark, awaiting, owner, unparked]

theorem exec_backoffEnd_of_one {o : OpName} {op : Op} {s : State} (parked : s.parked = [{ op := op, waiting := false }])
    (owner : op.owner = some o) : exec (.backoffEnd o) s = .next (resumeOps (awaiting op s)) := by
  have due : inBackoff o (beginEvent s) = true := by simp [inBackoff, parked, owner]
  have run : exec (.backoffEnd o) s = .next (resumeOps { beginEvent s with
      parked := s.parked.map fun p => if p.op.owner == some o then { p with waiting := true } else p }) :=
    next_congr (if_pos due)
  rw [run, parked]
  simp only [List.map_cons, List.map_nil, owner, beq_self_eq_true, if_true]
  rfl

theorem reissueWalk_of_none {e : EngineId} {s : State} (h : waitingOp (.walk e) s = none) : reissueWalk e s = s := by
  rw [reissueWalk, waitingWalk, h]

theorem reissueWalk_of_waiting {e : EngineId} {op : Op} {s : State} (h : waitingOp (.walk e) s = some op)
    (free : s.tag (engineTag e) = .free) : reissueWalk e s = issue (engineTag e) op (unpark (.walk e) s) := by
  rw [reissueWalk, waitingWalk, h]
  exact if_pos (by simp [free, isFree_eq])

/-- Only a walk's read goes ahead of the offer of tags to the classes. -/
theorem resumeOps_of_no_walk {s : State} (h : ∀ e, waitingOp (.walk e) s = none) : resumeOps s = offerTags s := by
  rw [resumeOps, reissueWalk_of_none (h 0), reissueWalk_of_none (h 1)]

theorem resumeOps_of_walk {e : EngineId} {op : Op} {s : State} (owner : op.owner = some (.walk e))
    (free : s.tag (engineTag e) = .free) :
    resumeOps (awaiting op s) = offerTags (issue (engineTag e) op (unparked s)) := by
  have again : reissueWalk e (awaiting op s) = issue (engineTag e) op (unparked s) := by
    rw [reissueWalk_of_waiting (waitingOp_of_awaiting owner s) free, unpark_awaiting owner]
  have before {e' : EngineId} (other : e ≠ e') : reissueWalk e' (awaiting op s) = awaiting op s :=
    reissueWalk_of_none (waitingOp_of_awaiting_other owner (by simpa using other) s)
  have after (e' : EngineId) : reissueWalk e' (issue (engineTag e) op (unparked s)) =
      issue (engineTag e) op (unparked s) := reissueWalk_of_none (waitingOp_of_parked_nil rfl _)
  obtain rfl | rfl : e = 0 ∨ e = 1 := Fin.exists_fin_two.mp ⟨e, rfl⟩
  · rw [resumeOps, again, after]
  · rw [resumeOps, before (by decide), again]

theorem backoffEnd_of_walk {e : EngineId} {op : Op} {s : State} (quiet : NothingWaits s)
    (parked : s.parked = [{ op := op, waiting := false }]) (owner : op.owner = some (.walk e))
    (free : s.tag (engineTag e) = .free) :
    exec (.backoffEnd (.walk e)) s = .next (issue (engineTag e) op (unparked s)) := by
  have offers : SameOffers s (issue (engineTag e) op (unparked s)) :=
    ⟨rfl, rfl, rfl, rfl, rfl, rfl, by simp [parked, unparked]⟩
  rw [exec_backoffEnd_of_one parked owner, resumeOps_of_walk owner free,
    offerTags_of_nothingWaits (nothingWaits_congr offers quiet)]

/-! ### A line's read -/

theorem waitingLine_of_awaiting {k : Nat} {op : Op} (owner : op.owner = some (.line k)) (s : State) :
    waitingLine (awaiting op s) = some k := by simp [waitingLine, awaiting, lineOf, owner]

theorem noLineDue_issue (t : TagId) (op : Op) {s : State} (h : NoLineDue s) : NoLineDue (issue t op s) :=
  noLineDue_congr ⟨rfl, rfl, rfl, rfl, rfl, rfl, rfl⟩ h

theorem backoffEnd_of_line {k : Nat} {op : Op} {s : State} (quiet : NothingWaits s) (busy : s.jobs ≠ [])
    (parked : s.parked = [{ op := op, waiting := false }]) (owner : op.owner = some (.line k)) :
    (∀ t, Lowest .validation t s →
      exec (.backoffEnd (.line k)) s = .next (issue t op (unparked s))) ∧
    (NoneFree .validation s → exec (.backoffEnd (.line k)) s = .next (awaiting op s)) := by
  obtain ⟨going, walks, due, writes, reads⟩ := quiet
  have run : exec (.backoffEnd (.line k)) s = .next (offerTags (awaiting op s)) := by
    rw [exec_backoffEnd_of_one parked owner,
      resumeOps_of_no_walk fun e => waitingOp_of_awaiting_other owner OpName.noConfusion s]
  have no_piece (o : OwnerRef) (i : Nat) : waitingOp (.piece o i) (awaiting op s) = waitingOp (.piece o i) s := by
    rw [waitingOp_of_awaiting_other owner OpName.noConfusion, waitingOp_of_none_waiting]
    simp [parked]
  have no_grant : grantOnce (awaiting op s) = none := grantOnce_of_none_waiting
    ((waitingWrite_congr (s := s) (t := awaiting op s) rfl no_piece).trans writes) ((waitingRead_congr (s := s) (t := awaiting op s) rfl no_piece).trans reads)
  have still : NoLineDue (unparked s) :=
    noLineDue_congr (s := s) ⟨rfl, rfl, rfl, rfl, rfl, rfl, by simp [parked, unparked]⟩ due
  obtain ⟨j, js, v, jobs, running, working, -⟩ := due.resolve_left busy
  have started : startJob (awaiting op s) = awaiting op s := by
    rw [startJob, show (awaiting op s).jobs = j :: js from jobs]
    exact if_pos running
  have offered : offerTags (awaiting op s) = softResetTest (issueLine (issueLine (awaiting op s))) := by
    rw [offerTags, startWalks_of_noneQueued (s := awaiting op s) walks, grants_of_none 12 no_grant, runValidation, started]
  have line_issued : issueLine (awaiting op s) = (freeTag .validation s).elim (awaiting op s)
      fun t => issue t op (unparked s) := by
    rw [issueLine, waitingLine_of_awaiting owner, show freeTag .validation (awaiting op s) = freeTag .validation s from rfl,
      show (awaiting op s).jobs.head? = some j from congrArg List.head? jobs,
      show (awaiting op s).validation = some v from working]
    cases freeTag .validation s with
    | none => rfl
    | some t => simp only [waitingOp_of_awaiting owner, unpark_awaiting owner, Option.elim]
  refine ⟨fun t lowest => ?_, fun none_free => ?_⟩
  · rw [freeTag_of_lowest lowest, Option.elim] at line_issued
    rw [run, offered, line_issued, issueLine_of_noLineDue (noLineDue_issue t op still),
      softResetTest_of_not_due (resetDue_of_going (s := issue t op (unparked s)) going)]
  · rw [freeTag_of_noneFree none_free, Option.elim] at line_issued
    rw [run, offered, line_issued, line_issued, softResetTest_of_not_due (resetDue_of_going (s := awaiting op s) going)]

/-! ### A piece's operation -/

/-- The piece whose operation waits is offered a data tag: the next grant is its own. -/
theorem backoffEnd_of_piece {o : OwnerRef} {i : Nat} {op : Op} {s : State} (g : GrantKind) (going : s.quiescing = false)
    (misses : s.missQueue = []) (jobs : s.jobs = []) (parked : s.parked = [{ op := op, waiting := false }])
    (owner : op.owner = some (.piece o i))
    (next : ∀ t, Lowest .data t s →
      grantOnce (awaiting op s) = some (issue t op (unpark (.piece o i) { awaiting op s with lastGrant := g })))
    (last : ∀ t, grantOnce (issue t op { unparked s with lastGrant := g }) = none) :
    (∀ t, Lowest .data t s →
      exec (.backoffEnd (.piece o i)) s = .next (issue t op { unparked s with lastGrant := g })) ∧
    (NoneFree .data s → exec (.backoffEnd (.piece o i)) s = .next (awaiting op s)) := by
  have run : exec (.backoffEnd (.piece o i)) s = .next (offerTags (awaiting op s)) := by
    rw [exec_backoffEnd_of_one parked owner,
      resumeOps_of_no_walk fun e => waitingOp_of_awaiting_other owner OpName.noConfusion s]
  have walks : NoneQueued (awaiting op s) := noneQueued_of_nil misses
  refine ⟨fun t lowest => ?_, fun none_free => ?_⟩
  · have taken : unpark (.piece o i) { awaiting op s with lastGrant := g } = { unparked s with lastGrant := g } :=
      congrArg (fun u => { u with lastGrant := g }) (unpark_awaiting owner s)
    have first := next t lowest
    rw [taken] at first
    exact run.trans (next_congr (offerTags_of_one_grant walks first (last t) (.inl jobs) going))
  · exact run.trans (next_congr (offerTags_of_no_grant walks (grantOnce_of_noneFree none_free) (.inl jobs) going))

theorem inBackoff_of_none {o : OpName} {s : State} (h : ∀ p ∈ s.parked, p.op.owner = some o → p.waiting = true) :
    inBackoff o s = false := by
  refine List.any_eq_false.mpr fun p mem => ?_
  have := h p mem
  simp only [Bool.and_eq_true, beq_iff_eq, Bool.not_eq_true', not_and, Bool.not_eq_false]
  exact this

/-- Settles O23: by what the operation is for; a walk's engine and a piece find their tag in the offer at the event's end, a
line in the validation engine's. -/
theorem backoffEndIssuesAgain : Obligations.BackoffEndIssuesAgain := by
  refine ⟨fun e op s quiet parked owner free => backoffEnd_of_walk quiet parked owner free,
    fun k op s quiet busy parked owner => backoffEnd_of_line quiet busy parked owner, ?write, ?read, fun o s none_due => ?_⟩
  case write =>
    intro e p op s going entries state pieces issued empty misses jobs parked owner
    have waits := waitingOp_of_awaiting owner s
    have write : waitingWrite (awaiting op s) = some (e, p) :=
      waitingWrite_of_one_piece entries (.inr state) pieces (by rw [pieceWaits_of_issued issued, waits]; rfl)
    refine backoffEnd_of_piece .write going misses jobs parked owner (fun t lowest => ?_) fun t => ?_
    · rw [grantOnce_of_write (s := awaiting op s) lowest write (.inl (waitingRead_of_empty empty)),
        grantWrite_of_waiting t waits]
    · exact grantOnce_of_sent_write t op entries (by simpa [pieces] using issued) rfl empty
  case read =>
    intro n c p op s going entries here others reading pieces issued misses jobs parked owner
    have waits := waitingOp_of_awaiting owner s
    have read : waitingRead (awaiting op s) = some (n, c, p) :=
      waitingRead_of_one_piece here others reading pieces (by rw [pieceWaits_of_issued issued, waits]; rfl)
    refine backoffEnd_of_piece .read going misses jobs parked owner (fun t lowest => ?_) fun t => ?_
    · rw [grantOnce_of_read (s := awaiting op s) lowest read (.inl (waitingWrite_of_nil entries)),
        grantRead_of_waiting t waits]
    · exact grantOnce_of_sent_read t op here others (by simpa [pieces] using issued) rfl entries
  · exact next_congr (if_neg (by rw [inBackoff_of_none (s := beginEvent s) none_due]; exact Bool.false_ne_true))

/-! ### The arbiter's turn -/

theorem noneFree_issue {c : TagClass} {t : TagId} {s : State} (op : Op)
    (others : ∀ u, u ≠ t → tagClass u = c → s.tag u ≠ .free) : NoneFree c (issue t op s) := by
  intro u cls
  rw [issue_tag]
  split_ifs with here
  · exact TagState.noConfusion
  · exact others u here cls

/-- Settles O25: with one tag FREE the recorded kind decides, and after its grant no tag is left. -/
theorem theArbiterAlternates : Obligations.TheArbiterAlternates := by
  refine ⟨?contended, fun s idle => ?_⟩
  case contended =>
    intro t e p n c x s free cls only entries ready wpieces wpending wtarget here others reading rpieces rpending rtarget
      parked fields
    have lowest : Lowest .data t (unmoved s) := ⟨cls, free, fun u lower => only u (ne_of_lt lower)⟩
    have write : waitingWrite (unmoved s) = some (e, p) :=
      waitingWrite_of_one_piece entries (.inl ready) wpieces (by rw [pieceWaits_of_pending wpending, wtarget])
    have read : waitingRead (unmoved s) = some (n, c, x) :=
      waitingRead_of_one_piece here others reading rpieces (by rw [pieceWaits_of_pending rpending, rtarget])
    refine ⟨fun last => ?_, fun last => ?_⟩
    · have first := grantOnce_of_write lowest write (.inr last)
      rw [grantWrite_of_pending (s := unmoved s) t entries wpieces parked] at first
      exact next_congr (grants_of_one 11 first (grantOnce_of_noneFree (noneFree_issue _ only)))
    · have first := grantOnce_of_read lowest read (.inr last)
      rw [grantRead_of_pending (s := unmoved s) t here rpieces parked] at first
      exact next_congr (grants_of_one 11 first (grantOnce_of_noneFree (noneFree_issue _ only)))
  · refine next_congr (grants_of_none 12 (s := unmoved s) ?_)
    rcases idle with none_free | ⟨write, read⟩
    · exact grantOnce_of_noneFree none_free
    · exact grantOnce_of_none_waiting ((waitingWrite_congr rfl fun _ _ => rfl).trans write)
        ((waitingRead_congr rfl fun _ _ => rfl).trans read)

end Sys2Proof.Machine
end

section
/-! SUPPORT and CLAIM. Leaving (R99, R100): what the leaving of an entry of a quiet aperture does; with ENTRY_LEAVE,
ENTRY_ELIGIBLE and FENCE_MET. -/

namespace Sys2Proof.Machine

open Sys2Proof.Claims

/-! ### The end of an event without owners -/

theorem noneWaits_of_no_owners {s : State} (entries : s.postQueue = []) (empty : ∀ n : SlotId, s.slot n = none)
    (misses : s.missQueue = []) (jobs : s.jobs = []) (going : s.quiescing = false) : NothingWaits s :=
  ⟨going, noneQueued_of_nil misses, .inl jobs, waitingWrite_of_nil entries, waitingRead_of_empty empty⟩

/-! ### Leaving -/

/-- An owner whose aperture, if it has one, is ACTIVE. -/
def QuietPlace (p : Option Place) (s : State) : Prop := ∀ x, p = some x → (s.ap x.aperture).state = .active

/-- No slot waits on its write fence. -/
def FencesMet (s : State) : Prop := ∀ n c, s.slot n = some c → c.fenceMet = true

theorem fencesMet_of_empty {s : State} (empty : ∀ n : SlotId, s.slot n = none) : FencesMet s := fun n c here => by
  rw [empty n] at here
  cases here

theorem tellFences_of_met {s : State} (met : FencesMet s) (r : ReqId) : tellFences r s = s := by
  refine List.foldl_fixed' (fun n => ?_) _
  cases here : s.slot n with
  | none => rfl
  | some c =>
    refine if_neg ?_
    simp [fenceDue, here, met n c here]

theorem uncountIf_of_unmarked (p : Option Place) (s : State) : uncountIf false p s = s := by cases p <;> rfl

theorem drainTestOf_of_quiet {p : Option Place} {s : State} (h : QuietPlace p s) : drainTestOf p s = s :=
  drainTestOf_of_not_draining fun x hx => by rw [h x hx]; exact ApState.noConfusion

theorem lowerInFlight_setPostQueue (p : Option Place) (q : List PostEntry) (s : State) :
    lowerInFlight p (setPostQueue q s) = setPostQueue q (lowerInFlight p s) := by cases p <;> rfl

theorem addFault_setPostQueue (p : Option Place) (q : List PostEntry) (s : State) :
    addFault p (setPostQueue q s) = setPostQueue q (addFault p s) := by cases p <;> rfl

theorem post_setPostQueue (p : Report) (q : List PostEntry) (s : State) :
    post p (setPostQueue q s) = setPostQueue q (post p s) := by
  rw [post, post, apply_ite (setPostQueue q)]
  rfl

theorem left_setPostQueue (e : PostEntry) (q : List PostEntry) (s : State) : left e (setPostQueue q s) = left e s := rfl

theorem lost_setPostQueue (e : PostEntry) (f : Failure) (q : List PostEntry) (s : State) :
    lost e f (setPostQueue q s) = lost e f s := rfl

@[simp] theorem left_postQueue (e : PostEntry) (s : State) : (left e s).postQueue = [] := lowerInFlight_postQueue _ _
@[simp] theorem left_slots (e : PostEntry) (s : State) : (left e s).slots = s.slots := lowerInFlight_slots _ _
@[simp] theorem left_missQueue (e : PostEntry) (s : State) : (left e s).missQueue = s.missQueue := lowerInFlight_missQueue _ _
@[simp] theorem left_jobs (e : PostEntry) (s : State) : (left e s).jobs = s.jobs := lowerInFlight_jobs _ _
@[simp] theorem left_quiescing (e : PostEntry) (s : State) : (left e s).quiescing = s.quiescing := lowerInFlight_quiescing _ _

theorem left_ap_state (e : PostEntry) (k : ApId) (s : State) : ((left e s).ap k).state = (s.ap k).state := by
  rw [left, lowerInFlight_ap]
  rfl

theorem quietPlace_of_left {e : PostEntry} {p : Option Place} {s : State} (h : QuietPlace p s) : QuietPlace p (left e s) :=
  fun x hx => (left_ap_state e x.aperture s).trans (h x hx)

theorem lost_ap_state (e : PostEntry) (f : Failure) (k : ApId) (s : State) :
    ((lost e f s).ap k).state = (s.ap k).state := by
  rw [lost, post_ap]
  refine Eq.trans ?_ (left_ap_state e k s)
  generalize left e s = u
  cases e.core.place with
  | none => rfl
  | some x =>
    simp only [addFault, updAp_ap, ap_congr (updReq_apertures _ _ _)]
    split_ifs with here
    · rw [here]
    · rfl

@[simp] theorem lost_postQueue (e : PostEntry) (f : Failure) (s : State) : (lost e f s).postQueue = [] := by simp [lost]
@[simp] theorem lost_slots (e : PostEntry) (f : Failure) (s : State) : (lost e f s).slots = s.slots := by simp [lost]
@[simp] theorem lost_missQueue (e : PostEntry) (f : Failure) (s : State) : (lost e f s).missQueue = s.missQueue := by
  simp [lost]
@[simp] theorem lost_jobs (e : PostEntry) (f : Failure) (s : State) : (lost e f s).jobs = s.jobs := by simp [lost]
@[simp] theorem lost_quiescing (e : PostEntry) (f : Failure) (s : State) : (lost e f s).quiescing = s.quiescing := by
  simp [lost]

/-- The requester record of a leaving, as R100 and R132 give it. -/
theorem markAt_eq (q : Requester) (seq : Seq) : { q.markAt seq with completed := seq, queuedWrites := q.queuedWrites - 1 } =
    { q with completed := seq, queuedWrites := q.queuedWrites - 1
             mark := if q.mark = some (seq, false) then some (seq, true) else q.mark } := by
  unfold Requester.markAt
  split
  next m at_mark =>
    by_cases here : m = seq
    · rw [at_mark, if_pos here, if_pos (by rw [here]), here]
    · rw [if_neg here, if_neg (by rw [at_mark]; simpa using here)]
  next other => rw [if_neg fun h => other seq h]

/-- The post queue without an entry. -/
def without (e : PostEntry) (s : State) : List PostEntry :=
  s.postQueue.filter fun x => !(x.named e.core.requester e.sequence)

theorem leave_eq {e : PostEntry} {s : State} (mark : e.core.settlingMark = false) (met : FencesMet s) :
    leave e s = drainTestOf e.core.place (recordLoss e (setPostQueue (without e s) (left e s))) := by
  have counted : uncountIf e.core.settlingMark e.core.place (lowerInFlight e.core.place
      (updReq e.core.requester (fun q =>
        { q.markAt e.sequence with completed := e.sequence, queuedWrites := q.queuedWrites - 1 })
        (setPostQueue (without e s) s))) = setPostQueue (without e s) (left e s) := by
    rw [mark, uncountIf_of_unmarked]
    simp only [markAt_eq]
    unfold left
    generalize e.core.place = p
    cases p <;> rfl
  have told (t : State) (slots : t.slots = s.slots) : tellFences e.core.requester t = t :=
    tellFences_of_met (fun n c here => met n c ((slot_congr slots n).symm.trans here)) _
  rw [← told (recordLoss e (setPostQueue (without e s) (left e s)))]
  · exact congrArg (fun u => drainTestOf e.core.place (tellFences e.core.requester (recordLoss e u))) counted
  · unfold recordLoss
    split <;> simp

/-- An entry that is not FAILED leaves without a report. -/
theorem leave_of_done {e : PostEntry} {s : State} (mark : e.core.settlingMark = false) (quiet : QuietPlace e.core.place s)
    (empty : ∀ n : SlotId, s.slot n = none) (kept : e.state ≠ .failed) :
    leave e s = setPostQueue (without e s) (left e s) := by
  have no_loss : recordLoss e (setPostQueue (without e s) (left e s)) = setPostQueue (without e s) (left e s) :=
    if_neg (by simpa using kept)
  rw [leave_eq mark (fencesMet_of_empty empty), no_loss]
  exact drainTestOf_of_quiet (quietPlace_of_left quiet)

/-- A FAILED entry leaves lost, with the failure that it recorded, where its aperture does not end draining by it. -/
theorem leave_loses {e : PostEntry} {f : Failure} {s : State} (mark : e.core.settlingMark = false) (met : FencesMet s)
    (failed : e.state = .failed) (recorded : e.core.failure = some f)
    (still : drainTestOf e.core.place (setPostQueue (without e s) (lost e f s)) = setPostQueue (without e s) (lost e f s)) :
    leave e s = setPostQueue (without e s) (lost e f s) := by
  have loss : recordLoss e (setPostQueue (without e s) (left e s)) = setPostQueue (without e s) (lost e f s) := by
    rw [recordLoss, if_pos (by simp [failed]), recorded, Option.getD_some, lost, ← post_setPostQueue,
      ← addFault_setPostQueue]
    rfl
  rw [leave_eq mark met, loss, still]

theorem leave_of_failed {e : PostEntry} {f : Failure} {s : State} (mark : e.core.settlingMark = false)
    (quiet : QuietPlace e.core.place s) (empty : ∀ n : SlotId, s.slot n = none) (failed : e.state = .failed)
    (recorded : e.core.failure = some f) : leave e s = setPostQueue (without e s) (lost e f s) :=
  leave_loses mark (fencesMet_of_empty empty) failed recorded
    (drainTestOf_of_quiet fun x hx => (lost_ap_state e f x.aperture s).trans (quiet x hx))

/-! ### The leaving of the only entry -/

theorem without_of_single {e : PostEntry} {s : State} (h : s.postQueue = [e]) : without e s = [] := by
  simp [without, h, PostEntry.named]

theorem setPostQueue_nil_left (e : PostEntry) (s : State) : setPostQueue [] (left e s) = left e s := by
  unfold left
  generalize e.core.place = p
  cases p <;> rfl

theorem setPostQueue_nil_lost (e : PostEntry) (f : Failure) (s : State) : setPostQueue [] (lost e f s) = lost e f s := by
  rw [lost, ← post_setPostQueue, ← addFault_setPostQueue]
  exact congrArg (fun u => post (writeLostReport e f) (addFault e.core.place
    (updReq e.core.requester (fun q => { q with lossFlag := true }) u))) (setPostQueue_nil_left e s)

theorem offerTags_left {e : PostEntry} {s : State} (empty : ∀ n : SlotId, s.slot n = none) (misses : s.missQueue = [])
    (jobs : s.jobs = []) (going : s.quiescing = false) : offerTags (left e s) = left e s :=
  offerTags_of_nothingWaits (noneWaits_of_no_owners (by simp) (fun n => (slot_congr (by simp) n).trans (empty n))
    (by simp [misses]) (by simp [jobs]) (by simp [going]))

theorem offerTags_lost {e : PostEntry} {f : Failure} {s : State} (empty : ∀ n : SlotId, s.slot n = none)
    (misses : s.missQueue = []) (jobs : s.jobs = []) (going : s.quiescing = false) :
    offerTags (lost e f s) = lost e f s :=
  offerTags_of_nothingWaits (noneWaits_of_no_owners (by simp) (fun n => (slot_congr (by simp) n).trans (empty n))
    (by simp [misses]) (by simp [jobs]) (by simp [going]))

theorem mayLeave_of_done {e : PostEntry} (done : e.state = .done) : e.mayLeave = true := by simp [PostEntry.mayLeave, done]

theorem mayLeave_of_failed {e : PostEntry} (failed : e.state = .failed) (landed : ∀ p ∈ e.core.pieces, p.state ≠ .issued) :
    e.mayLeave = true := by
  simpa [PostEntry.mayLeave, failed, Piece.isIssued] using landed

theorem mayLeave_eq_false {e : PostEntry} (not_done : e.state ≠ .done)
    (flying : e.state = .failed → ∃ p ∈ e.core.pieces, p.state = .issued) : e.mayLeave = false := by
  have not_failed : e.state = .failed → e.core.pieces.any Piece.isIssued = true := fun failed => by
    obtain ⟨p, mem, issued⟩ := flying failed
    exact List.any_eq_true.mpr ⟨p, mem, by simp [Piece.isIssued, issued]⟩
  by_cases failed : e.state = .failed
  · simp [PostEntry.mayLeave, failed, not_failed failed]
  · simp [PostEntry.mayLeave, failed, not_done]

theorem leaveAll_of_done {e : PostEntry} {s : State} (h : s.postQueue = [e]) (done : e.state = .done)
    (mark : e.core.settlingMark = false) (quiet : QuietPlace e.core.place s) (empty : ∀ n : SlotId, s.slot n = none) :
    leaveAll e.core.requester s = left e s := by
  have not_ready : e.state ≠ .ready := by simp [done]
  have not_failed : e.state ≠ .failed := by simp [done]
  rw [leaveAll_of_may_leave h not_ready (mayLeave_of_done done), leave_of_done mark quiet empty not_failed,
    without_of_single h, setPostQueue_nil_left]

theorem leaveAll_of_failed {e : PostEntry} {f : Failure} {s : State} (h : s.postQueue = [e]) (failed : e.state = .failed)
    (recorded : e.core.failure = some f) (landed : ∀ p ∈ e.core.pieces, p.state ≠ .issued)
    (mark : e.core.settlingMark = false) (quiet : QuietPlace e.core.place s) (empty : ∀ n : SlotId, s.slot n = none) :
    leaveAll e.core.requester s = lost e f s := by
  have not_ready : e.state ≠ .ready := by simp [failed]
  rw [leaveAll_of_may_leave h not_ready (mayLeave_of_failed failed landed), leave_of_failed mark quiet empty failed recorded,
    without_of_single h, setPostQueue_nil_lost]

/-- An entry of ZERO pieces alone is DONE as soon as it is eligible (R96). -/
theorem eligible_of_zeros {e : PostEntry} (zeros : ∀ p ∈ e.core.pieces, p.kind = .zero ∧ p.state = .pending) :
    e.eligible = { e.withPieces (e.core.pieces.map Piece.writeZero) with state := .done } := by
  have all : (e.withPieces (e.core.pieces.map Piece.writeZero)).allWritten = true := by
    refine List.all_eq_true.mpr fun q written => ?_
    obtain ⟨p, mem, rfl⟩ := List.mem_map.mp written
    obtain ⟨zero, pending⟩ := zeros p mem
    simp [Piece.writeZero, zero, pending]
  exact if_pos all

theorem leaveAll_of_zeros {e : PostEntry} {s : State} (h : s.postQueue = [e]) (ready : e.state = .ready)
    (zeros : ∀ p ∈ e.core.pieces, p.kind = .zero ∧ p.state = .pending) (mark : e.core.settlingMark = false)
    (quiet : QuietPlace e.core.place s) (empty : ∀ n : SlotId, s.slot n = none) :
    leaveAll e.core.requester s = left e s := by
  have eligible := eligible_of_zeros zeros
  generalize written : e.core.pieces.map Piece.writeZero = ps at eligible
  let d : PostEntry := { e.withPieces ps with state := .done }
  have quiet' : QuietPlace d.core.place (setPostQueue [d] s) := quiet
  rw [leaveAll_of_ready h ready, eligible, if_pos (mayLeave_of_done rfl),
    leave_of_done (e := d) mark quiet' empty EntryState.noConfusion, without_of_single rfl, left_setPostQueue]
  exact setPostQueue_nil_left e s

/-- A DONE head leaves, and the entry behind it is its requester's only one then. -/
theorem leaveAll_of_done_before {d e : PostEntry} {s : State} (h : s.postQueue = [d, e]) (done : d.state = .done)
    (own : e.core.requester = d.core.requester) (later : e.sequence ≠ d.sequence) (mark : d.core.settlingMark = false)
    (quiet : QuietPlace d.core.place s) (empty : ∀ n : SlotId, s.slot n = none) :
    leaveAll d.core.requester s = leaveAll e.core.requester (setPostQueue [e] (left d s)) := by
  have headed : head d.core.requester s = some d := by rw [head, h, List.find?_cons_of_pos (by simp)]
  have still : makeEligible d.core.requester s = s := by
    rw [makeEligible, headed]
    exact if_neg (by simp [done])
  have behind : without d s = [e] := by simp [without, h, PostEntry.named, later]
  have gone := leave_of_done mark quiet empty (by simp [done])
  rw [behind] at gone
  rw [leaveAll, h, List.length_cons, leaveCascade, still, headed]
  simp only [mayLeave_of_done done, if_true]
  rw [gone, own]
  rfl

/-! ### The commands -/

theorem exec_entryLeave_of_may {e : PostEntry} {s : State} (headed : head e.core.requester s = some e)
    (may : e.mayLeave = true) :
    exec (.entryLeave e.core.requester) s = .next (offerTags (leaveAll e.core.requester (unmoved s))) :=
  next_congr (if_pos (by rw [head_congr (beginEvent_postQueue s), headed]; exact may))

theorem exec_entryEligible_of_ready {e : PostEntry} {s : State} (headed : head e.core.requester s = some e)
    (ready : e.state = .ready) :
    exec (.entryEligible e.core.requester) s = .next (offerTags (leaveAll e.core.requester (unmoved s))) :=
  next_congr (if_pos (by rw [head_congr (beginEvent_postQueue s), headed]; simp [ready]))

theorem quietPlace_of_plain {c : OwnerCore} {s : State} (h : Plain c s) : QuietPlace c.place (unmoved s) := h.place

/-- The READY entry with one MAP piece, the only one: its operation is issued under the lowest FREE data tag. -/
theorem leaveAll_grant_of_map_piece {e : PostEntry} {p : Piece} {t : TagId} {s : State} (entries : s.postQueue = [e])
    (ready : e.state = .ready) (pieces : e.core.pieces = [p]) (map : p.kind = .map) (pending : p.state = .pending)
    (target : p.target.isSome = true) (lowest : Lowest .data t s) (empty : ∀ n : SlotId, s.slot n = none)
    (misses : s.missQueue = []) (jobs : s.jobs = []) (parked : s.parked = []) (going : s.quiescing = false) :
    offerTags (leaveAll e.core.requester s) = issue t (writeOp e p) { s with
      lastGrant := .write
      postQueue := [{ e with state := .issued, core := { e.core with pieces := [{ p with state := .issued }] } }] } := by
  have memory : p.kind ≠ .zero := by simp [map]
  have eligible : e.eligible = e := by
    rw [eligible_of_pending (pieces ▸ List.mem_singleton_self p) pending memory, pieces, List.map_singleton,
      show p.writeZero = p from if_neg (by simp [memory]), ← pieces]
    rfl
  have stays : leaveAll e.core.requester s = s := by
    rw [leaveAll_of_ready entries ready, eligible,
      if_neg (by rw [mayLeave_eq_false (by simp [ready]) (by simp [ready])]; exact Bool.false_ne_true),
      setPostQueue_self entries]
  have write : waitingWrite s = some (e, p) :=
    waitingWrite_of_one_piece entries (.inl ready) pieces ((pieceWaits_of_pending pending _ _).trans target)
  have sent := grantOnce_of_write lowest write (.inl (waitingRead_of_empty empty))
  rw [grantWrite_of_pending t entries pieces parked] at sent
  rw [stays]
  exact offerTags_of_one_grant (noneQueued_of_nil misses) sent
    (grantOnce_of_sent_write t _ rfl (fun q mem => by rw [List.mem_singleton.mp mem]) parked empty) (.inl jobs) going

/-- Settles O52: the leaving of the head, and then of the entry behind it, as R99 has them. -/
theorem headsBecomeEligibleAndLeave : Obligations.HeadsBecomeEligibleAndLeave := by
  refine ⟨?one, ?two, ?idle⟩
  case one =>
    intro e s going entries plain empty misses jobs parked
    have headed := head_of_single entries
    have quiet := quietPlace_of_plain plain
    refine ⟨fun done => ?_, fun ready zeros => ?_, fun p t a ready pieces map pending target lowest => ?_⟩
    · rw [exec_entryLeave_of_may headed (mayLeave_of_done done),
        leaveAll_of_done (s := unmoved s) entries done plain.mark quiet empty,
        offerTags_left (s := unmoved s) empty misses jobs going]
    · rw [exec_entryEligible_of_ready headed ready,
        leaveAll_of_zeros (s := unmoved s) entries ready zeros plain.mark quiet empty,
        offerTags_left (s := unmoved s) empty misses jobs going]
    · refine ⟨_, _, (exec_entryEligible_of_ready headed ready).trans (next_congr (leaveAll_grant_of_map_piece
        (s := unmoved s) entries ready pieces map pending (by simp [target]) lowest empty misses jobs parked going)),
        (issue_tag _ _ _ _).trans (if_pos rfl), rfl, by simp [writeOp, target], rfl, rfl, rfl, rfl, rfl, rfl,
        ⟨rfl, rfl, rfl, rfl, rfl, rfl, rfl, rfl⟩, rfl, rfl, fun v other => (issue_tag _ _ _ _).trans (if_neg other)⟩
  case two =>
    intro d e s going entries dplain eplain own later empty misses jobs parked done
    have headed : head d.core.requester s = some d := by rw [head, entries, List.find?_cons_of_pos (by simp)]
    have first := leaveAll_of_done_before (s := unmoved s) entries done own later dplain.mark (quietPlace_of_plain dplain) empty
    have empty' (n : SlotId) : (setPostQueue [e] (left d (unmoved s))).slot n = none :=
      (slot_congr (left_slots d (unmoved s)) n).trans (empty n)
    have misses' : (left d (unmoved s)).missQueue = [] := (left_missQueue _ _).trans misses
    have jobs' : (left d (unmoved s)).jobs = [] := (left_jobs _ _).trans jobs
    have going' : (left d (unmoved s)).quiescing = false := (left_quiescing _ _).trans going
    have quiet : QuietPlace e.core.place (setPostQueue [e] (left d (unmoved s))) :=
      quietPlace_of_left (quietPlace_of_plain eplain)
    refine ⟨fun ready zeros => ?_, fun f failed recorded landed => ?_⟩
    · rw [exec_entryLeave_of_may headed (mayLeave_of_done done), first, leaveAll_of_zeros rfl ready zeros eplain.mark quiet empty',
        left_setPostQueue, offerTags_left (s := left d (unmoved s)) empty' misses' jobs' going']
    · rw [exec_entryLeave_of_may headed (mayLeave_of_done done), first,
        leaveAll_of_failed rfl failed recorded landed eplain.mark quiet empty', lost_setPostQueue,
        offerTags_lost (s := left d (unmoved s)) empty' misses' jobs' going']
  case idle =>
    refine fun r s => ⟨fun stays => ?_, fun not_ready => ?_⟩
    · refine next_congr (if_neg ?_)
      rw [head_congr (beginEvent_postQueue s)]
      cases headed : head r s with
      | none => simp
      | some e =>
        obtain ⟨not_done, flying⟩ := stays e headed
        simp [mayLeave_eq_false not_done flying]
    · refine next_congr (if_neg ?_)
      rw [head_congr (beginEvent_postQueue s)]
      cases headed : head r s with
      | none => simp
      | some e => simpa using not_ready e headed

/-! ### A fence that is met -/

theorem fenceDue_iff {n : SlotId} {c : Slot} {s : State} (here : s.slot n = some c) :
    fenceDue n s = true ↔ c.fenceMet = false ∧ (s.req c.core.requester).completed = c.fence := by simp [fenceDue, here]

/-- An ORDERED slot whose fence comes to be met is READING, with zeros in its ZERO pieces. -/
theorem meetFence_of_ordered {n : SlotId} {c : Slot} {p : Piece} {s : State} (here : s.slot n = some c)
    (ordered : c.state = .ordered) (pieces : c.core.pieces = [p]) : meetFence n s =
      becomeReady n (setSlot n (some { c with
        fenceMet := true, state := .reading, core := { c.core with pieces := [p.readZero] } }) s) := by
  rw [meetFence, updSlot_of_slot here]
  refine (startReading_of_met (setSlot_slot_self _ _ _) (by exact ordered) rfl).trans ?_
  rw [setSlot_setSlot, pieces]
  rfl

/-- Settles O53: the slot reads, at once when its piece is ZERO, else by the grant of the lowest FREE data tag. -/
theorem aMetFenceStartsTheRead : Obligations.AMetFenceStartsTheRead := by
  intro n c s here
  refine ⟨fun not_due => next_congr (if_neg ?_), fun p unmet reached ordered going entries others misses jobs parked pieces
    pending => ?_⟩
  · rw [fenceDue_iff (s := beginEvent s) here]
    rintro ⟨unmet, reached⟩
    rcases not_due with met | early
    · simp [met] at unmet
    · exact early reached
  have run : exec (.fenceMet n) s = .next (offerTags (meetFence n (unmoved s))) :=
    next_congr (if_pos ((fenceDue_iff (s := beginEvent s) here).mpr ⟨unmet, reached⟩))
  rw [run, meetFence_of_ordered (s := unmoved s) here ordered pieces]
  have alone (d : Slot) (m : SlotId) (other : m ≠ n) : (setSlot n (some d) (unmoved s)).slot m = none :=
    (setSlot_slot _ _ _ _).trans ((if_neg other).trans (others m other))
  have walks (d : Slot) : NoneQueued (setSlot n (some d) (unmoved s)) := noneQueued_of_nil misses
  refine ⟨fun zero => ?_, fun t a map target lowest => ?_⟩
  · have read : p.readZero = { p with state := .read (List.replicate p.length 0) } := if_pos (by simp [zero, pending])
    let d : Slot := { c with
      fenceMet := true, state := .reading
      core := { c.core with pieces := [{ p with state := .read (List.replicate p.length 0) }] } }
    have ready := becomeReady_of_all_read (c := d) (setSlot_slot_self n (some d) (unmoved s)) rfl rfl
    rw [setSlot_setSlot] at ready
    rw [read, ready]
    refine next_congr (Eq.trans (offerTags_of_no_grant (walks _) (grantOnce_of_none_waiting (waitingWrite_of_nil entries)
      (waitingRead_of_none_waits (setSlot_slot_self _ _ _) (alone _) fun reading => absurd reading SlotState.noConfusion))
      (.inl jobs) going) ?_)
    simp [d, Piece.bytes, unmoved]
  · have kept : p.readZero = p := if_neg (by simp [map])
    let d : Slot := { c with fenceMet := true, state := .reading, core := { c.core with pieces := [p] } }
    let u : State := setSlot n (some d) (unmoved s)
    have open_slot : d.allRead = false := by simp [Slot.allRead, d, pending]
    have reading := becomeReady_of_open (c := d) (setSlot_slot_self n (some d) (unmoved s)) open_slot
    have read : waitingRead u = some (n, d, p) := waitingRead_of_one_piece (setSlot_slot_self _ _ _) (alone d) rfl rfl
      ((pieceWaits_of_pending pending _ _).trans (by simp [target]))
    have sent := grantOnce_of_read (s := u) lowest read (.inl (waitingWrite_of_nil entries))
    rw [grantRead_of_pending (s := u) t (setSlot_slot_self _ _ _) rfl parked] at sent
    let flown : Slot := { d with core := { d.core with pieces := [{ p with state := .issued }] } }
    have last := grantOnce_of_sent_read (s := setSlot n (some flown) { u with lastGrant := .read }) t (readOp n d p)
      (setSlot_slot_self _ _ _) (fun m other => (setSlot_slot _ _ _ _).trans ((if_neg other).trans (alone d m other)))
      (fun q mem => by rw [List.mem_singleton.mp mem]) parked entries
    have still : u.jobs = [] := jobs
    have up : u.quiescing = false := going
    have granted := offerTags_of_one_grant (s := u) (walks d) sent last (.inl (by simp [still])) (by simp [up])
    rw [kept, reading]
    refine ⟨_, _, next_congr granted, (issue_tag _ _ _ _).trans (if_pos rfl), rfl, by simp [readOp, target], rfl, ?slot,
      ?_, ?_, ?_, ⟨?_, ?_, ?_, ?_, ?_, ?_, ?_, ?_⟩, ?_, ?_, ?others⟩
    case slot => exact setSlot_slot_self n _ { u with lastGrant := .read }
    case others => exact fun v other => (issue_tag _ _ _ _).trans (if_neg other)
    all_goals simp [u, unmoved, entries]

end Sys2Proof.Machine
end

section
/-! SUPPORT and CLAIM. The end of a write's memory operation (R97 to R102): among its entry's other pieces it waits on, leaves
written, or fails and leaves lost. -/

namespace Sys2Proof.Machine

open Sys2Proof.Claims

/-! ### The commands that end an operation -/

/-- An operation that fails is handed to its owner with its cause, its tag FREE or QUARANTINED. -/
theorem exec_of_fails {t : TagId} {op : Op} {i : Instr} {c : Cause} {x : TagState} {s : State} (up : s.resetLow = false)
    (here : s.tag t = .outstanding op) (running : op.cancelled = false) (fails : Fails t op i c x s) :
    (∀ op', x ≠ .outstanding op') ∧ ∃ m r : _, MemCause.toCause m = c ∧
      exec i s = .next (offerTags (opFailed { op with retries := r } m t (setTag t x (unmoved s)))) := by
  rcases fails with ⟨code, rfl, rfl, rfl⟩ | ⟨rfl, limited, exhausted, rfl, rfl⟩ | ⟨rfl, rfl, rfl⟩
  · refine ⟨fun _ => TagState.noConfusion, .memoryError, op.retries, rfl, next_congr ?_⟩
    exact (if_neg (by simp [up])).trans (takeResponse_of_running (s := unmoved s) here running)
  · refine ⟨fun _ => TagState.noConfusion, .retryExhausted, op.retries + 1, rfl, next_congr ?_⟩
    refine (if_neg (by simp [up])).trans ((takeResponse_of_running (s := unmoved s) here running).trans ?_)
    exact congrArg offerTags (if_pos ⟨limited, exhausted⟩)
  · exact ⟨fun _ => TagState.noConfusion, .responseTimeout, op.retries, rfl,
      next_congr (expireTag_of_running (s := unmoved s) here running)⟩

/-- A cancelled operation ends as its owner is told, whatever the response. -/
theorem exec_of_ends {t : TagId} {op : Op} {i : Instr} {x : TagState} {s : State} (up : s.resetLow = false)
    (here : s.tag t = .outstanding op) (cancelled : op.cancelled = true) (ends : Ends t op i x) :
    exec i s = .next (offerTags (endCancelled op (setTag t x (unmoved s)))) := by
  rcases ends with ⟨lanes, code, mem, rfl⟩ | ⟨rfl, rfl⟩
  · obtain ⟨act, run⟩ := exec_response up mem
    exact run.trans (next_congr (takeResponse_of_cancelled (s := unmoved s) here cancelled))
  · exact next_congr (expireTag_of_cancelled (s := unmoved s) here cancelled)

theorem exec_responseOk_of_running {t : TagId} {op : Op} {s : State} (up : s.resetLow = false)
    (here : s.tag t = .outstanding op) (running : op.cancelled = false) (lanes : Lanes) :
    exec (.responseOk t lanes) s = .next (offerTags (opOk op lanes (setTag t .free (unmoved s)))) :=
  next_congr ((if_neg (by simp [up])).trans (takeResponse_of_running (s := unmoved s) here running))

/-! ### What a failure leaves of the pieces and of the tags -/

theorem atFailure_eq (flying : Piece → Bool) (b : Bool) {y : Piece} (same : y.state = .issued → b = flying y) :
    y.atFailure b = besideFailure flying y := by
  unfold Piece.atFailure besideFailure
  cases h : y.state with
  | issued => rw [same h]
  | _ => rfl

theorem besideFailure_issued_iff (flying : Piece → Bool) (y : Piece) :
    (besideFailure flying y).state = .issued ↔ y.state = .issued ∧ flying y = true := by
  unfold besideFailure
  cases h : y.state with
  | issued => cases hf : flying y <;> simp [h]
  | _ => simp [h]

theorem isOutstanding_owner_iff (o : OpName) (s : State) :
    isOutstanding o s = true ↔ ∃ u op, s.tag u = .outstanding op ∧ op.owner = some o := by
  simp only [isOutstanding, List.any_eq_true, allTags, List.mem_finRange, true_and]
  refine exists_congr fun u => ?_
  cases s.tag u with
  | outstanding op => simp
  | _ => simp

/-- Cancelling the operations of an owner without forgetting it is what the claims say of it (R152). -/
theorem cancelled_of_cancelOps {o : OwnerRef} {s t : State} (tags : ∀ v, t.tag v = (s.tag v).cancel (pieceOf o) false) :
    Cancelled o s t := by
  refine ⟨fun v op k here owner => ?_, fun v other => ?_⟩
  · rw [tags, here, TagState.cancel_of_picked owner ((pieceOf_iff o _).mpr ⟨k, rfl⟩)]
    rfl
  · rw [tags]
    exact TagState.cancel_of_not_picked (fun op o' here owner => pieceOf_false fun k same =>
      other op k here (owner.trans (congrArg some same))) false

theorem cancelOps_of_none_flying {o : OwnerRef} {s : State}
    (tags : ∀ v op k, s.tag v = .outstanding op → op.owner ≠ some (.piece o k)) :
    cancelOps (pieceOf o) false s = { s with parked := (cancelOps (pieceOf o) false s).parked } := by
  have same : s.tags.map (TagState.cancel (pieceOf o) false) = s.tags := by
    refine Vector.ext fun v h => (Vector.getElem_map _ _).trans ?_
    exact TagState.cancel_of_not_picked (fun op o' here owner => pieceOf_false fun k is_piece =>
      tags ⟨v, h⟩ op k here (owner.trans (congrArg some is_piece))) false
  rw [cancelOps, same]

theorem pieces_at_failure {o : OwnerRef} {before after : List Piece} {p : Piece} {flying : Piece → Bool} {u : State}
    (issued : p.state = .issued) (landed : isOutstanding (.piece o p.index) u = false)
    (others : ∀ y ∈ before ++ after, isOutstanding (.piece o y.index) u = flying y) :
    (before ++ p :: after).map (fun q => q.atFailure (isOutstanding (.piece o q.index) u)) =
      before.map (besideFailure flying) ++ { p with state := .ended } :: after.map (besideFailure flying) := by
  have fallen : p.atFailure (isOutstanding (.piece o p.index) u) = { p with state := .ended } := by
    rw [landed, Piece.atFailure, issued]
    rfl
  have beside (l : List Piece) (sub : ∀ y ∈ l, y ∈ before ++ after) :
      l.map (fun q => q.atFailure (isOutstanding (.piece o q.index) u)) = l.map (besideFailure flying) :=
    List.map_congr_left fun y mem => atFailure_eq flying _ fun _ => others y (sub y mem)
  rw [List.map_append, List.map_cons, fallen, beside before fun y => List.mem_append_left _,
    beside after fun y => List.mem_append_right _]

theorem pieceFailure_eq {o : OwnerRef} {c : OwnerCore} {p : Piece} {s : State} (core : ownerCore o s = some c)
    (found : c.pieces.find? (·.index == p.index) = some p) (ended : c.progress = none) (m : MemCause) (t : TagId) :
    pieceFailure o p.index m t s = failureAt c p t m.toCause := by
  have generation : c.reportGeneration = c.generation := by
    rw [OwnerCore.reportGeneration, ended]
    cases c.generation <;> rfl
  rw [pieceFailure, core]
  simp only [found, OwnerCore.failureOf, generation]
  rfl

/-! ### The only entry fails -/

/-- The entry as it is FAILED, with its pieces as they now are. -/
def failedEntry (e : PostEntry) (f : Failure) (pieces : List Piece) : PostEntry :=
  { e with state := .failed, core := { e.core with failure := some f, pieces := pieces } }

theorem failOwner_of_single {e : PostEntry} {s : State} (h : s.postQueue = [e]) (ended : e.core.progress = none)
    (f : Failure) : failOwner e.ref f s = setPostQueue [failedEntry e f
      (e.core.pieces.map fun p => p.atFailure (isOutstanding (.piece e.ref p.index) s))]
      (cancelOps (pieceOf e.ref) false s) := by
  let d : PostEntry := { e with core := { e.core with
    progress := none, failure := some f
    pieces := e.core.pieces.map fun p => p.atFailure (isOutstanding (.piece e.ref p.index) s) } }
  have core : failCore e.ref f s = setPostQueue [d] (cancelOps (pieceOf e.ref) false s) := by
    rw [failCore, updCore_of_single h]
    rfl
  have unfolded : failOwner e.ref f s = updEntry e.core.requester e.sequence (fun e => { e with state := .failed })
      (failCore e.ref f s) := rfl
  rw [unfolded, core]
  refine (updEntry_of_single (e := d) (s := setPostQueue [d] _) rfl _).trans ?_
  exact congrArg (fun g => setPostQueue [{ d with state := .failed, core := { d.core with progress := g } }]
    (cancelOps (pieceOf e.ref) false s)) ended.symm

section
variable {t : TagId} {op : Op} {e : PostEntry} {before after : List Piece} {p : Piece} {s : State}

/-- When the operation of one piece has ended, the others' stand as they were. -/
theorem isOutstanding_after_end {o : OwnerRef} {x : TagState} (here : s.tag t = .outstanding op)
    (owner : op.owner = some (.piece o p.index)) (ended : ∀ op', x ≠ .outstanding op')
    (only : ∀ u op' k, s.tag u = .outstanding op' → op'.owner = some (.piece o k) →
      u = t ∨ ∃ y ∈ before ++ after, y.index = k)
    (distinct : ∀ y ∈ before ++ after, y.index ≠ p.index) :
    isOutstanding (.piece o p.index) (setTag t x (unmoved s)) = false ∧
    ∀ y ∈ before ++ after, isOutstanding (.piece o y.index) (setTag t x (unmoved s)) = true ↔ Flying o y s := by
  have tag (u : TagId) : (setTag t x (unmoved s)).tag u = if u = t then x else s.tag u := setTag_tag t u x (unmoved s)
  refine ⟨?_, fun y mem => ?_⟩
  · rw [← Bool.not_eq_true, isOutstanding_owner_iff]
    rintro ⟨u, op', out, own⟩
    rw [tag] at out
    split_ifs at out with at_t
    · exact ended op' out
    · obtain same | ⟨y, mem, index⟩ := only u op' p.index out own
      · exact at_t same
      · exact distinct y mem index
  · rw [isOutstanding_owner_iff]
    refine exists_congr fun u => exists_congr fun op' => and_congr_left fun own => ?_
    rw [tag]
    split_ifs with at_t
    · refine iff_of_false (ended op') fun out => ?_
      rw [at_t, here, TagState.outstanding.injEq] at out
      rw [← out, owner, Option.some.injEq, OpName.piece.injEq] at own
      exact distinct y mem own.2.symm
    · exact Iff.rfl

end

/-! ### The only write -/

/-- An entry none of whose pieces waits, and no other traffic, leaves the event as it stands. -/
theorem offerTags_of_still_entry {d : PostEntry} {s : State} (entries : s.postQueue = [d])
    (empty : ∀ n : SlotId, s.slot n = none) (misses : s.missQueue = []) (jobs : s.jobs = []) (going : s.quiescing = false)
    (still : d.state = .ready ∨ d.state = .issued → ∀ p ∈ d.core.pieces, pieceWaits d.ref s p = false) :
    offerTags s = s :=
  offerTags_of_nothingWaits ⟨going, noneQueued_of_nil misses, .inl jobs, waitingWrite_of_none_waits entries still,
    waitingRead_of_empty empty⟩

theorem mem_other_or_eq {before after : List Piece} {y q : Piece} (mem : y ∈ before ++ q :: after) : y = q ∨ y ∈ before ++ after := by
  simp only [List.mem_append, List.mem_cons] at mem ⊢
  tauto

section
variable {t : TagId} {op : Op} {e : PostEntry} {before after : List Piece} {p : Piece} {s : State}
  (h : OneWrite t op e before p after s)
include h

theorem oneWrite_quiet (x : TagState) : QuietPlace e.core.place (setTag t x (unmoved s)) := h.plain.place

theorem oneWrite_updPiece (x : TagState) (st : PieceState) :
    updPiece e.ref p.index (fun p => { p with state := st }) (setTag t x (unmoved s)) =
      setPostQueue [e.withPieces (before ++ { p with state := st } :: after)] (setTag t x (unmoved s)) :=
  updPiece_of_single (s := setTag t x (unmoved s)) h.entries h.pieces h.distinct _

/-- The piece is WRITTEN, and with every piece WRITTEN the entry is DONE. -/
theorem oneWrite_written (state : e.state = .issued) {d : PostEntry}
    (shape : d = e.withPieces (before ++ { p with state := .written } :: after)) :
    entryWritten e.core.requester e.sequence p.index (setTag t .free (unmoved s)) = leaveAll e.core.requester
      (setPostQueue [if d.allWritten then { d with state := .done } else d] (setTag t .free (unmoved s))) := by
  subst shape
  let d : PostEntry := e.withPieces (before ++ { p with state := .written } :: after)
  have told := updEntry_of_single (e := d) (s := setPostQueue [d] (setTag t .free (unmoved s))) rfl
    (fun e => if e.state == .issued && e.allWritten then { e with state := .done } else e)
  have working : (d.state == .issued) = true := beq_iff_eq.mpr state
  rw [working, Bool.true_and] at told
  exact congrArg (leaveAll e.core.requester) ((congrArg (updEntry e.core.requester e.sequence _)
    (oneWrite_updPiece h .free .written)).trans told)

/-- With another piece ISSUED the entry stays. -/
theorem oneWrite_written_stays (state : e.state = .issued)
    (landed : ∀ y ∈ before ++ after, y.state = .written ∨ y.state = .issued)
    (backed_off : ∀ x ∈ s.parked, x.waiting = false) (flying : ∃ y ∈ before ++ after, y.state = .issued) :
    offerTags (entryWritten e.core.requester e.sequence p.index (setTag t .free (unmoved s))) =
      setPostQueue [e.withPieces (before ++ { p with state := .written } :: after)] (setTag t .free (unmoved s)) := by
  let d : PostEntry := e.withPieces (before ++ { p with state := .written } :: after)
  have not_all : d.allWritten = false := by
    obtain ⟨y, mem, issued⟩ := flying
    refine List.all_eq_false.mpr ⟨y, ?_, by simp [issued]⟩
    simp only [d, PostEntry.withPieces, List.mem_append, List.mem_cons] at mem ⊢
    tauto
  have working : d.state = .issued := state
  have stays := leaveAll_of_may_not_leave (e := d) (s := setPostQueue [d] (setTag t .free (unmoved s))) rfl
    (by simp [working]) (mayLeave_eq_false (by simp [working]) (by simp [working]))
  rw [oneWrite_written h state (d := d) rfl, if_neg (by simp [not_all]), show leaveAll e.core.requester (setPostQueue [d] (setTag t .free (unmoved s))) = _ from stays]
  refine offerTags_of_still_entry (d := d) rfl h.slots h.misses h.jobs h.going fun _ y mem => ?_
  have none_waits (o : OpName) : waitingOp o (setPostQueue [d] (setTag t .free (unmoved s))) = none :=
    waitingOp_of_none_waiting backed_off o
  obtain rfl | other := mem_other_or_eq mem
  · exact pieceWaits_of_over (by simp) (by simp) _ _
  · obtain written | issued := landed y other
    · exact pieceWaits_of_over (by simp [written]) (by simp [written]) _ _
    · rw [pieceWaits_of_issued issued, none_waits]
      rfl

/-- With every piece WRITTEN the entry leaves. -/
theorem oneWrite_written_leaves (state : e.state = .issued) (landed : ∀ y ∈ before ++ after, y.state = .written) :
    offerTags (entryWritten e.core.requester e.sequence p.index (setTag t .free (unmoved s))) =
      left e (setTag t .free (unmoved s)) := by
  let d : PostEntry := { e.withPieces (before ++ { p with state := .written } :: after) with state := .done }
  have all : (e.withPieces (before ++ { p with state := .written } :: after)).allWritten = true := by
    refine List.all_eq_true.mpr fun y mem => ?_
    obtain rfl | other := mem_other_or_eq mem
    · rfl
    · simp [landed y other]
  have leaves := leaveAll_of_done (e := d) (s := setPostQueue [d] (setTag t .free (unmoved s))) rfl rfl h.plain.mark
    (oneWrite_quiet h .free) h.slots
  rw [oneWrite_written h state rfl, if_pos all, show leaveAll e.core.requester (setPostQueue [d] (setTag t .free (unmoved s))) = _ from leaves]
  exact offerTags_left (e := e) (s := setTag t .free (unmoved s)) h.slots h.misses h.jobs h.going

/-- The entry fails, whatever its other pieces are at. -/
theorem oneWrite_fails {x : TagState} (ended : ∀ op', x ≠ .outstanding op') {flying : Piece → Bool}
    (flies : ∀ y ∈ before ++ after, flying y = true ↔ Flying e.ref y s) (m : MemCause) :
    failOwner e.ref (pieceFailure e.ref p.index m t (setTag t x (unmoved s))) (setTag t x (unmoved s)) =
      setPostQueue [failedEntry e (failureAt e.core p t m.toCause)
        (before.map (besideFailure flying) ++ { p with state := .ended } :: after.map (besideFailure flying))]
        (cancelOps (pieceOf e.ref) false (setTag t x (unmoved s))) := by
  have entries : (setTag t x (unmoved s)).postQueue = [e] := h.entries
  obtain ⟨landed, others⟩ := isOutstanding_after_end h.tag h.owner ended h.only h.distinct
  have found : e.core.pieces.find? (·.index == p.index) = some p := h.pieces ▸ find?_at_index h.distinct
  rw [pieceFailure_eq (ownerCore_of_single entries) found h.plain.progress, failOwner_of_single entries h.plain.progress,
    h.pieces, pieces_at_failure h.piece landed fun y mem => Bool.eq_iff_iff.mpr ((others y mem).trans (flies y mem).symm)]

theorem oneWrite_unparked (x : TagState) : (cancelOps (pieceOf e.ref) false (setTag t x (unmoved s))).parked = [] := by
  refine List.filter_eq_nil_iff.mpr fun y mem => ?_
  obtain ⟨q, -, owner⟩ := h.parked y mem
  simp [owner, pieceOf]

/-- With no other piece's operation OUTSTANDING the failure takes the entry away, lost. -/
theorem oneWrite_fails_alone {x : TagState} (ended : ∀ op', x ≠ .outstanding op') {flying : Piece → Bool}
    (flies : ∀ y ∈ before ++ after, flying y = true ↔ Flying e.ref y s)
    (alone : ∀ y ∈ before ++ after, flying y = false) (m : MemCause) :
    offerTags (leaveAll e.core.requester
      (failOwner e.ref (pieceFailure e.ref p.index m t (setTag t x (unmoved s))) (setTag t x (unmoved s)))) =
      lost e (failureAt e.core p t m.toCause) (setTag t x { unmoved s with parked := [] }) := by
  have none_flies (v : TagId) (op' : Op) (k : Nat) (out : (setTag t x (unmoved s)).tag v = .outstanding op') :
      op'.owner ≠ some (.piece e.ref k) := by
    intro own
    rw [setTag_tag] at out
    split_ifs at out with at_t
    · exact ended op' out
    · obtain same | ⟨y, mem, rfl⟩ := h.only v op' k out own
      · exact at_t same
      · exact absurd ((flies y mem).mpr ⟨v, op', out, own⟩) (by simp [alone y mem])
  have cancelled : cancelOps (pieceOf e.ref) false (setTag t x (unmoved s)) = setTag t x { unmoved s with parked := [] } := by
    rw [cancelOps_of_none_flying none_flies, oneWrite_unparked h]
    rfl
  rw [oneWrite_fails h ended flies, cancelled]
  generalize shape : before.map (besideFailure flying) ++ { p with state := .ended } :: after.map (besideFailure flying) = ps
  have landed : ∀ y ∈ ps, y.state ≠ .issued := by
    rw [← shape]
    intro y mem
    simp only [List.mem_append, List.mem_cons, List.mem_map] at mem
    have beside {z : Piece} (other : z ∈ before ++ after) : (besideFailure flying z).state ≠ .issued := fun issued =>
      absurd ((besideFailure_issued_iff flying z).mp issued).2 (by simp [alone z other])
    rcases mem with ⟨z, first, rfl⟩ | rfl | ⟨z, last, rfl⟩
    · exact beside (List.mem_append_left _ first)
    · exact PieceState.noConfusion
    · exact beside (List.mem_append_right _ last)
  let u : State := setTag t x { unmoved s with parked := [] }
  let d : PostEntry := failedEntry e (failureAt e.core p t m.toCause) ps
  have leaves := leaveAll_of_failed (e := d) (s := setPostQueue [d] u) rfl rfl rfl landed h.plain.mark
    (oneWrite_quiet h x) h.slots
  rw [show leaveAll e.core.requester (setPostQueue [d] u) = _ from leaves]
  exact offerTags_lost (e := e) (s := u) h.slots h.misses h.jobs h.going

/-- With another piece's operation OUTSTANDING the entry stays, FAILED, and that operation is cancelled. -/
theorem oneWrite_fails_beside {x : TagState} (ended : ∀ op', x ≠ .outstanding op') {flying : Piece → Bool}
    (flies : ∀ y ∈ before ++ after, flying y = true ↔ Flying e.ref y s)
    (beside : ∃ y ∈ before ++ after, y.state = .issued ∧ flying y = true) (m : MemCause) :
    offerTags (leaveAll e.core.requester
      (failOwner e.ref (pieceFailure e.ref p.index m t (setTag t x (unmoved s))) (setTag t x (unmoved s)))) =
      setPostQueue [failedEntry e (failureAt e.core p t m.toCause)
        (before.map (besideFailure flying) ++ { p with state := .ended } :: after.map (besideFailure flying))]
        (cancelOps (pieceOf e.ref) false (setTag t x (unmoved s))) := by
  rw [oneWrite_fails h ended flies]
  generalize shape : before.map (besideFailure flying) ++ { p with state := .ended } :: after.map (besideFailure flying) = ps
  have flown : ∃ y ∈ ps, y.state = .issued := by
    obtain ⟨y, mem, issued, flying⟩ := beside
    refine ⟨_, ?_, (besideFailure_issued_iff _ y).mpr ⟨issued, flying⟩⟩
    rw [← shape]
    rcases List.mem_append.mp mem with first | last
    · exact List.mem_append_left _ (List.mem_map_of_mem first)
    · exact List.mem_append_right _ (List.mem_cons_of_mem _ (List.mem_map_of_mem last))
  let d : PostEntry := failedEntry e (failureAt e.core p t m.toCause) ps
  let u : State := setPostQueue [d] (cancelOps (pieceOf e.ref) false (setTag t x (unmoved s)))
  have stays := leaveAll_of_may_not_leave (e := d) (s := u) rfl EntryState.noConfusion
    (mayLeave_eq_false EntryState.noConfusion fun _ => flown)
  rw [show leaveAll e.core.requester u = u from stays]
  exact offerTags_of_still_entry (d := d) rfl h.slots h.misses h.jobs h.going fun offers => by simp [d, failedEntry] at offers

/-- The end of a cancelled operation leaves the FAILED entry as it is while another is to come, and takes it away last. -/
theorem oneWrite_cancelled {f : Failure} (x : TagState) (state : e.state = .failed) (recorded : e.core.failure = some f) :
    ((∀ y ∈ before ++ after, y.state ≠ .issued) →
      offerTags (leaveAll e.core.requester (updPiece e.ref p.index (fun p => { p with state := .ended })
        (setTag t x (unmoved s)))) = lost e f (setTag t x (unmoved s))) ∧
    ((∃ y ∈ before ++ after, y.state = .issued) →
      offerTags (leaveAll e.core.requester (updPiece e.ref p.index (fun p => { p with state := .ended })
        (setTag t x (unmoved s)))) =
        setPostQueue [e.withPieces (before ++ { p with state := .ended } :: after)] (setTag t x (unmoved s))) := by
  rw [oneWrite_updPiece h]
  let d : PostEntry := e.withPieces (before ++ { p with state := .ended } :: after)
  let u : State := setPostQueue [d] (setTag t x (unmoved s))
  have failed : d.state = .failed := state
  refine ⟨fun landed => ?_, fun flown => ?_⟩
  · have none_flies : ∀ y ∈ d.core.pieces, y.state ≠ .issued := fun y mem => by
      obtain rfl | other := mem_other_or_eq mem
      · exact PieceState.noConfusion
      · exact landed y other
    have leaves := leaveAll_of_failed (e := d) (s := u) rfl failed recorded none_flies h.plain.mark (oneWrite_quiet h x) h.slots
    rw [show leaveAll e.core.requester u = _ from leaves]
    exact offerTags_lost (e := e) (s := setTag t x (unmoved s)) h.slots h.misses h.jobs h.going
  · have flying : ∃ y ∈ d.core.pieces, y.state = .issued := by
      obtain ⟨y, mem, issued⟩ := flown
      refine ⟨y, ?_, issued⟩
      simp only [d, PostEntry.withPieces, List.mem_append, List.mem_cons] at mem ⊢
      tauto
    have stays := leaveAll_of_may_not_leave (e := d) (s := u) rfl (by simp [failed])
      (mayLeave_eq_false (by simp [failed]) fun _ => flying)
    rw [show leaveAll e.core.requester u = u from stays]
    exact offerTags_of_still_entry (d := d) rfl h.slots h.misses h.jobs h.going fun offers => by simp [failed] at offers

end

/-- Settles O20: by how the operation ends; a failure by whether another of the entry's is OUTSTANDING. -/
theorem writesEndWrittenOrLost : Obligations.WritesEndWrittenOrLost := by
  intro t op e before after p s h
  refine ⟨fun state running => ⟨fun landed backed_off => ?ok, fun i c x flying fails flies => ?failure⟩,
    fun f i x state recorded cancelled ends => ?cancelled⟩
  case ok =>
    have run (lanes : Lanes) : exec (.responseOk t lanes) s =
        .next (offerTags (entryWritten e.core.requester e.sequence p.index (setTag t .free (unmoved s)))) := by
      rw [exec_responseOk_of_running h.up h.tag running, opOk, h.owner]
      rfl
    exact ⟨fun lanes others => (run lanes).trans (next_congr (oneWrite_written_stays h state landed backed_off others)),
      fun lanes others => (run lanes).trans (next_congr (oneWrite_written_leaves h state others))⟩
  case failure =>
    obtain ⟨ended, m, r, rfl, run⟩ := exec_of_fails h.up h.tag running fails
    rw [opFailed, h.owner] at run
    refine ⟨fun alone => run.trans (next_congr (oneWrite_fails_alone h ended flies alone m)), fun beside =>
      ⟨_, run.trans (next_congr (oneWrite_fails_beside h ended flies beside m)), ?_, ?_⟩⟩
    · exact cancelled_of_cancelOps fun v => cancelOps_tag _ _ v (setTag t x (unmoved s))
    · exact congrArg (fun q : List Parked => ({ unmoved s with
        parked := q
        postQueue := [failedEntry e (failureAt e.core p t m.toCause)
          (before.map (besideFailure flying) ++ { p with state := .ended } :: after.map (besideFailure flying))] } : State))
        (oneWrite_unparked h x)
  case cancelled =>
    have run := exec_of_ends h.up h.tag cancelled ends
    rw [endCancelled, h.owner] at run
    obtain ⟨last, stays⟩ := oneWrite_cancelled h x state recorded
    exact ⟨fun landed => run.trans (next_congr (last landed)), fun flown => run.trans (next_congr (stays flown))⟩

end Sys2Proof.Machine
end

section
/-! SUPPORT and CLAIM. The end of a read's memory operation (R116 to R119): among its slot's other pieces it waits on, comes to
READY with its bytes, or fails. -/

namespace Sys2Proof.Machine

open Sys2Proof.Claims

theorem slotUncount_of_unmarked {n : SlotId} {c : Slot} {s : State} (here : s.slot n = some c)
    (mark : c.core.settlingMark = false) : slotUncount n s = s := by
  rw [slotUncount, here]
  exact if_neg (by simp [mark])

/-- A slot none of whose pieces waits, and no other traffic, leaves the event as it stands. -/
theorem offerTags_of_still_slot {n : SlotId} {d : Slot} {s : State} (here : s.slot n = some d)
    (others : ∀ m, m ≠ n → s.slot m = none) (entries : s.postQueue = []) (misses : s.missQueue = []) (jobs : s.jobs = [])
    (going : s.quiescing = false) (still : d.state = .reading → ∀ p ∈ d.core.pieces, pieceWaits (.slot n) s p = false) :
    offerTags s = s :=
  offerTags_of_nothingWaits ⟨going, noneQueued_of_nil misses, .inl jobs, waitingWrite_of_nil entries,
    waitingRead_of_none_waits here others still⟩

/-- A slot fails at once: its translation is set aside, it posts READ_FAILED and raises its aperture's fault count. -/
theorem failOwner_of_slot {n : SlotId} {c : Slot} {s : State} (here : s.slot n = some c)
    (mark : c.core.settlingMark = false) (f : Failure) : failOwner (.slot n) f s =
      addFault c.core.place (post (readFailedReport c.core f) (setSlot n (some (failedSlot
        { c with core := { c.core with progress := none } } f
        (c.core.pieces.map fun p => p.atFailure (isOutstanding (.piece (.slot n) p.index) s)) s))
        (cancelOps (pieceOf (.slot n)) false s))) := by
  let d : Slot := { c with core := { c.core with
    progress := none, failure := some f
    pieces := c.core.pieces.map fun p => p.atFailure (isOutstanding (.piece (.slot n) p.index) s) } }
  have core : failCore (.slot n) f s = setSlot n (some d) (cancelOps (pieceOf (.slot n)) false s) := by
    rw [failCore, updCore_of_slot here]
    rfl
  have failed : updSlot n (fun c => { c with state := .failed, timer := some s.settings.discardInterval })
      (failCore (.slot n) f s) = setSlot n (some (failedSlot { c with core := { c.core with progress := none } } f
        (c.core.pieces.map fun p => p.atFailure (isOutstanding (.piece (.slot n) p.index) s)) s))
        (cancelOps (pieceOf (.slot n)) false s) := by
    rw [core, updSlot_of_slot (setSlot_slot_self _ _ _), setSlot_setSlot]
    rfl
  have unfolded : failOwner (.slot n) f s = slotUncount n (addFault c.core.place (post (readFailedReport c.core f)
      (updSlot n (fun c => { c with state := .failed, timer := some s.settings.discardInterval })
        (failCore (.slot n) f s)))) := by
    rw [failOwner, here]
  rw [unfolded, failed]
  refine slotUncount_of_unmarked ((slot_congr (addFault_slots _ _) n).trans ((post_slot _ _ n).trans
    (setSlot_slot_self _ _ _))) mark

theorem translated_slot_eq {c : Slot} (ended : c.core.progress = none) :
    ({ c with core := { c.core with progress := none } } : Slot) = c := by rw [← ended]

section
variable {t : TagId} {op : Op} {n : SlotId} {c : Slot} {before after : List Piece} {p : Piece} {s : State}
  (h : OneRead t op n c before p after s)
include h

theorem oneRead_updPiece (x : TagState) (st : PieceState) :
    updPiece (.slot n) p.index (fun p => { p with state := st }) (setTag t x (unmoved s)) =
      setSlot n (some (c.withPieces (before ++ { p with state := st } :: after))) (setTag t x (unmoved s)) :=
  updPiece_of_slot (s := setTag t x (unmoved s)) h.slot h.pieces h.distinct _

theorem oneRead_others (d : Slot) (x : TagState) (m : SlotId) (other : m ≠ n) :
    (setSlot n (some d) (setTag t x (unmoved s))).slot m = none :=
  (setSlot_slot _ _ _ _).trans ((if_neg other).trans (h.others m other))

/-- With another piece ISSUED the slot stays READING. -/
theorem oneRead_read_stays (landed : ∀ y ∈ before ++ after, y.state = .issued ∨ ∃ bs, y.state = .read bs)
    (backed_off : ∀ x ∈ s.parked, x.waiting = false) (bytes : List Byte) (flying : ∃ y ∈ before ++ after, y.state = .issued) :
    offerTags (slotRead n p.index bytes (setTag t .free (unmoved s))) =
      setSlot n (some (c.withPieces (before ++ { p with state := .read bytes } :: after))) (setTag t .free (unmoved s)) := by
  let d : Slot := c.withPieces (before ++ { p with state := .read bytes } :: after)
  have not_all : d.allRead = false := by
    obtain ⟨y, mem, issued⟩ := flying
    refine List.all_eq_false.mpr ⟨y, ?_, by simp [issued]⟩
    simp only [d, Slot.withPieces, List.mem_append, List.mem_cons] at mem ⊢
    tauto
  have here := setSlot_slot_self n (some d) (setTag t .free (unmoved s))
  rw [slotRead, oneRead_updPiece h, becomeReady_of_open here not_all, slotUncount_of_unmarked here h.plain.mark]
  refine offerTags_of_still_slot here (oneRead_others h d .free) h.entries h.misses h.jobs h.going fun _ y mem => ?_
  have none_waits (o : OpName) : waitingOp o (setSlot n (some d) (setTag t .free (unmoved s))) = none :=
    waitingOp_of_none_waiting backed_off o
  obtain rfl | other := mem_other_or_eq mem
  · exact pieceWaits_of_over (by simp) (by simp) _ _
  · obtain issued | ⟨bs, read⟩ := landed y other
    · rw [pieceWaits_of_issued issued, none_waits]
      rfl
    · exact pieceWaits_of_over (by simp [read]) (by simp [read]) _ _

/-- With every piece READ the slot is READY with their bytes in order. -/
theorem oneRead_read_ready (state : c.state = .reading) (landed : ∀ y ∈ before ++ after, ∃ bs, y.state = .read bs)
    (bytes : List Byte) : offerTags (slotRead n p.index bytes (setTag t .free (unmoved s))) =
      setSlot n (some { c with
        state := .ready, data := before.flatMap Piece.bytes ++ bytes ++ after.flatMap Piece.bytes
        timer := some s.settings.discardInterval
        core := { c.core with pieces := before ++ { p with state := .read bytes } :: after } })
        (setTag t .free (unmoved s)) := by
  let d : Slot := c.withPieces (before ++ { p with state := .read bytes } :: after)
  have all : d.allRead = true := by
    refine List.all_eq_true.mpr fun y mem => ?_
    obtain rfl | other := mem_other_or_eq mem
    · rfl
    · obtain ⟨bs, read⟩ := landed y other
      simp [read]
  have data : d.core.pieces.flatMap Piece.bytes = before.flatMap Piece.bytes ++ bytes ++ after.flatMap Piece.bytes := by
    simp [d, Slot.withPieces, Piece.bytes]
  let r : Slot := { d with
    state := .ready, data := before.flatMap Piece.bytes ++ bytes ++ after.flatMap Piece.bytes
    timer := some s.settings.discardInterval }
  have here := setSlot_slot_self n (some d) (setTag t .free (unmoved s))
  have uncounted := slotUncount_of_unmarked (setSlot_slot_self n (some r) (setTag t .free (unmoved s))) h.plain.mark
  rw [slotRead, oneRead_updPiece h, becomeReady_of_all_read here state all, setSlot_setSlot, data]
  refine (congrArg offerTags uncounted).trans ?_
  exact offerTags_of_still_slot (setSlot_slot_self _ _ _) (oneRead_others h _ .free) h.entries h.misses h.jobs h.going
    fun reading => absurd reading SlotState.noConfusion

/-- The slot fails, whatever its other pieces are at. -/
theorem oneRead_fails {x : TagState} (ended : ∀ op', x ≠ .outstanding op') {flying : Piece → Bool}
    (flies : ∀ y ∈ before ++ after, flying y = true ↔ Flying (.slot n) y s) (m : MemCause) :
    failOwner (.slot n) (pieceFailure (.slot n) p.index m t (setTag t x (unmoved s))) (setTag t x (unmoved s)) =
      addFault c.core.place (post (readFailed c.core (failureAt c.core p t m.toCause))
        (setSlot n (some (failedSlot c (failureAt c.core p t m.toCause)
          (before.map (besideFailure flying) ++ { p with state := .ended } :: after.map (besideFailure flying)) s))
          (cancelOps (pieceOf (.slot n)) false (setTag t x (unmoved s))))) := by
  have here : (setTag t x (unmoved s)).slot n = some c := h.slot
  obtain ⟨landed, others⟩ := isOutstanding_after_end h.tag h.owner ended h.only h.distinct
  have found : c.core.pieces.find? (·.index == p.index) = some p := h.pieces ▸ find?_at_index h.distinct
  rw [pieceFailure_eq (ownerCore_of_slot here) found h.plain.progress, failOwner_of_slot here h.plain.mark,
    translated_slot_eq h.plain.progress,
    h.pieces, pieces_at_failure h.piece landed fun y mem => Bool.eq_iff_iff.mpr ((others y mem).trans (flies y mem).symm)]
  rfl

theorem oneRead_unparked (x : TagState) : (cancelOps (pieceOf (.slot n)) false (setTag t x (unmoved s))).parked = [] := by
  refine List.filter_eq_nil_iff.mpr fun y mem => ?_
  obtain ⟨q, -, owner⟩ := h.parked y mem
  simp [owner, pieceOf]

theorem oneRead_failed_stays (x : TagState) (f : Failure) (ps : List Piece) (r : Report) :
    let u := addFault c.core.place (post r (setSlot n (some (failedSlot c f ps s))
      (cancelOps (pieceOf (.slot n)) false (setTag t x (unmoved s)))))
    offerTags u = u := by
  intro u
  have slots (m : SlotId) : u.slot m = if m = n then some (failedSlot c f ps s) else s.slot m :=
    (slot_congr (addFault_slots _ _) m).trans ((post_slot _ _ m).trans (setSlot_slot _ _ _ _))
  exact offerTags_of_still_slot ((slots n).trans (if_pos rfl)) (fun m other => (slots m).trans ((if_neg other).trans
    (h.others m other))) (by simp [u, h.entries, unmoved, cancelOps]) (by simp [u, h.misses, unmoved, cancelOps])
    (by simp [u, h.jobs, unmoved, cancelOps]) (by simp [u, h.going, unmoved, cancelOps])
    fun reading => absurd reading SlotState.noConfusion

/-- The end of a cancelled operation leaves the FAILED slot FAILED. -/
theorem oneRead_cancelled (x : TagState) (state : c.state = .failed) :
    offerTags (slotUncount n (updPiece (.slot n) p.index (fun p => { p with state := .ended }) (setTag t x (unmoved s)))) =
      setSlot n (some (c.withPieces (before ++ { p with state := .ended } :: after))) (setTag t x (unmoved s)) := by
  rw [oneRead_updPiece h]
  let d : Slot := c.withPieces (before ++ { p with state := .ended } :: after)
  have here := setSlot_slot_self n (some d) (setTag t x (unmoved s))
  have failed : d.state = .failed := state
  rw [slotUncount_of_unmarked here h.plain.mark]
  exact offerTags_of_still_slot here (oneRead_others h d x) h.entries h.misses h.jobs h.going
    fun reading => by simp [failed] at reading

end

theorem addFault_tags_comm (p : Option Place) (v : Vector TagState 16) (s : State) :
    { addFault p s with tags := v } = addFault p { s with tags := v } := by cases p <;> rfl

theorem post_tags_comm (p : Report) (v : Vector TagState 16) (s : State) :
    { post p s with tags := v } = post p { s with tags := v } := by
  unfold post
  split <;> rfl

/-- Settles O21: by how the operation ends, and whether another piece of the slot's is still ISSUED. -/
theorem readsEndReadyOrFailed : Obligations.ReadsEndReadyOrFailed := by
  intro t op n c before after p s h
  refine ⟨fun state running => ⟨fun landed backed_off lanes => ?ok, fun i w x flying fails flies => ?failure⟩,
    fun i x state cancelled ends => ?cancelled⟩
  case ok =>
    intro bytes pieces
    have run : exec (.responseOk t lanes) s =
        .next (offerTags (slotRead n p.index bytes (setTag t .free (unmoved s)))) := by
      rw [exec_responseOk_of_running h.up h.tag running, opOk, h.owner]
    refine ⟨fun others => run.trans (next_congr (oneRead_read_stays h landed backed_off bytes others)),
      fun others => run.trans (next_congr (oneRead_read_ready h state (fun y mem => ?_) bytes))⟩
    exact (landed y mem).resolve_left (others y mem)
  case failure =>
    intro f pieces
    obtain ⟨ended, m, r, rfl, run⟩ := exec_of_fails h.up h.tag running fails
    rw [opFailed, h.owner] at run
    refine ⟨_, run.trans (next_congr ((congrArg offerTags (oneRead_fails h ended flies m)).trans
      (oneRead_failed_stays h x f pieces _))), ?_, ?_⟩
    · refine cancelled_of_cancelOps fun v => ?_
      rw [tag_congr (addFault_tags _ _), post_tag]
      exact cancelOps_tag _ _ v (setTag t x (unmoved s))
    · rw [addFault_tags_comm, post_tags_comm]
      exact congrArg (fun q : List Parked => addFault c.core.place (post (readFailed c.core f)
        (setSlot n (some (failedSlot c f pieces s)) { unmoved s with parked := q }))) (oneRead_unparked h x)
  case cancelled =>
    have run := exec_of_ends h.up h.tag cancelled ends
    rw [endCancelled, h.owner] at run
    exact run.trans (next_congr (oneRead_cancelled h x state))

end Sys2Proof.Machine
end

section
/-! SUPPORT and CLAIM. TICK (R119, R146, R148, R149): which intervals end at it. RESET (R173, R174): what freeing every slot
leaves, and the two courses it then takes. -/

namespace Sys2Proof.Machine

open Sys2Proof.Claims

/-! ### The tick -/

theorem lower_eq : TagState.lower = fun x => match x with
    | .outstanding op => .outstanding { op with timer := op.timer - 1 }
    | x => x := by
  funext x
  cases x <;> rfl

theorem lowerTimers_eq_ticked (s : State) : lowerTimers { beginEvent s with tickCounter := 0 } = ticked s := by
  rw [lowerTimers, lower_eq]
  rfl

theorem ticked_tag (t : TagId) (s : State) : (ticked s).tag t = (s.tag t).lower := by
  rw [← lowerTimers_eq_ticked]
  exact Vector.getElem_map _ _

theorem ticked_slot (n : SlotId) (s : State) :
    (ticked s).slot n = (s.slot n).map fun c => { c with timer := c.timer.map (· - 1) } := Vector.getElem_map _ _

theorem isDue_response_iff (t : TagId) (s : State) : isDue (.response t) (ticked s) = true ↔ TagDue t s := by
  rw [isDue, ticked_tag, TagDue]
  cases s.tag t with
  | outstanding op => simp [TagState.lower]; omega
  | _ => simp [TagState.lower]

theorem isDue_discard_iff (n : SlotId) (s : State) : isDue (.discard n) (ticked s) = true ↔ SlotDue n s := by
  rw [isDue, ticked_slot, SlotDue]
  cases s.slot n with
  | none => simp
  | some c => cases h : c.timer <;> simp [h]; omega

theorem isDue_backoffs_iff (s : State) :
    isDue .backoffs (ticked s) = true ↔ ∃ p ∈ s.parked, p.waiting = false := by
  simp [isDue, ticked, unmoved]

theorem mem_allExpiries (x : Expiry) : x ∈ allExpiries := by
  cases x <;> simp [allExpiries, allTags]

theorem allExpiries_nodup : allExpiries.Nodup := by decide

theorem exec_tick_of_few {s : State} (up : s.resetLow = false)
    (few : (allExpiries.filter fun x => isDue x (ticked s)).length ≤ 1) :
    exec .tick s = .next (takeExpiries (allExpiries.filter fun x => isDue x (ticked s)) (ticked s)) := by
  refine next_congr ((if_neg (by simp [up])).trans ?_)
  rw [produceTick, lowerTimers_eq_ticked]
  exact if_pos few

/-- With no interval ending the tick lowers the timers, and that is all. -/
theorem exec_tick_of_none {s : State} (up : s.resetLow = false) (none_due : ∀ x, isDue x (ticked s) = false) :
    exec .tick s = .next (ticked s) := by
  have none : (allExpiries.filter fun x => isDue x (ticked s)) = [] :=
    List.filter_eq_nil_iff.mpr fun x _ => by simp [none_due x]
  rw [exec_tick_of_few up (by simp [none]), none]
  rfl

/-- With one interval ending its expiry follows. -/
theorem exec_tick_of_one {s : State} (up : s.resetLow = false) (x : Expiry) (due : isDue x (ticked s) = true)
    (only : ∀ y, y ≠ x → isDue y (ticked s) = false) : exec .tick s = .next (takeExpiry x (ticked s)) := by
  have one : (allExpiries.filter fun y => isDue y (ticked s)) = [x] := by
    have same : (allExpiries.filter fun y => isDue y (ticked s)) = allExpiries.filter (· == x) := by
      refine List.filter_congr fun y _ => ?_
      by_cases h : y = x
      · simp [h, due]
      · simp [h, only y h]
    rw [same, List.filter_beq, List.count_eq_one_of_mem allExpiries_nodup (mem_allExpiries x)]
    rfl
  rw [exec_tick_of_few up (by simp [one]), one]
  rfl

/-- A backoff's end takes every operation in BACKOFF, when they are all of one owner. -/
theorem takeExpiry_backoffs {o : OpName} {s : State} (due : ∃ p ∈ s.parked, p.waiting = false)
    (own : ∀ p ∈ s.parked, p.waiting = false → p.op.owner = some o) :
    .next (takeExpiry .backoffs (ticked s)) = exec (.backoffEnd o) (ticked s) := by
  have same : s.parked.map (fun p => { p with waiting := true }) =
      s.parked.map fun p => if p.op.owner == some o then { p with waiting := true } else p := by
    refine List.map_congr_left fun p mem => ?_
    cases waits : p.waiting with
    | false => simp [own p mem waits]
    | true =>
      have still : { p with waiting := true } = p := by rw [← waits]
      rw [still, ite_self]
  have parked : inBackoff o (beginEvent (ticked s)) = true := by
    obtain ⟨p, mem, waits⟩ := due
    exact List.any_eq_true.mpr ⟨p, mem, by simp [own p mem waits, waits]⟩
  have ends : exec (.backoffEnd o) (ticked s) = .next (resumeOps { ticked s with
      parked := s.parked.map fun p => if p.op.owner == some o then { p with waiting := true } else p }) :=
    next_congr (if_pos parked)
  rw [ends, ← same, takeExpiry, if_pos ((isDue_backoffs_iff s).mpr due)]
  rfl

/-- Settles O24: by the one interval that ends. -/
theorem aTickLowersTimersAndEndsIntervals : Obligations.ATickLowersTimersAndEndsIntervals := by
  intro s up
  have no_tag {t : TagId} (h : ¬TagDue t s) : isDue (.response t) (ticked s) = false := by
    rw [← Bool.not_eq_true, isDue_response_iff]; exact h
  have no_slot {n : SlotId} (h : ¬SlotDue n s) : isDue (.discard n) (ticked s) = false := by
    rw [← Bool.not_eq_true, isDue_discard_iff]; exact h
  have no_backoff (h : ∀ p ∈ s.parked, p.waiting = true) : isDue .backoffs (ticked s) = false := by
    rw [← Bool.not_eq_true, isDue_backoffs_iff]
    rintro ⟨p, mem, waits⟩
    simp [h p mem] at waits
  refine ⟨fun tags slots parked => exec_tick_of_none up fun x => ?none, fun t due others slots parked => ?tag,
    fun n due others tags parked => ?slot, fun o due own tags slots => ?backoff⟩
  case none =>
    cases x with
    | response t => exact no_tag (tags t)
    | discard n => exact no_slot (slots n)
    | backoffs => exact no_backoff parked
  case tag =>
    have is_due := (isDue_response_iff t s).mpr due
    rw [exec_tick_of_one up (.response t) is_due fun y other => ?_, takeExpiry, if_pos is_due]
    · rfl
    · cases y with
      | response u => exact no_tag (others u fun same => other (congrArg _ same))
      | discard n => exact no_slot (slots n)
      | backoffs => exact no_backoff parked
  case slot =>
    have is_due := (isDue_discard_iff n s).mpr due
    rw [exec_tick_of_one up (.discard n) is_due fun y other => ?_, takeExpiry, if_pos is_due]
    · rfl
    · cases y with
      | response u => exact no_tag (tags u)
      | discard m => exact no_slot (others m fun same => other (congrArg _ same))
      | backoffs => exact no_backoff parked
  case backoff =>
    rw [exec_tick_of_one up .backoffs ((isDue_backoffs_iff s).mpr due) fun y other => ?_, takeExpiry_backoffs due own]
    cases y with
    | response u => exact no_tag (tags u)
    | discard m => exact no_slot (slots m)
    | backoffs => exact absurd rfl other

/-! ### Freeing every slot -/

/-- What the freeing of slots leaves, whatever they hold. -/
structure Vacated (s t : State) : Prop where
  entries : t.postQueue = s.postQueue
  untouched : Untouched s t
  requests : ∀ r, (t.req r).queuedWrites = (s.req r).queuedWrites ∧ (t.req r).taken = (s.req r).taken
  misses : s.missQueue = [] → t.missQueue = []
  parked : s.parked = [] → t.parked = []
  tags : (∀ u op, s.tag u ≠ .outstanding op) → ∀ u op, t.tag u ≠ .outstanding op
  out : t.out = s.out
  nextAge : t.nextAge = s.nextAge
  choices : t.choices = s.choices

/-- What the freeing of pass-through slots leaves besides. -/
structure PassVacated (s t : State) : Prop where
  apertures : ∀ k, t.ap k = s.ap k
  reports : t.reports = s.reports
  places : ∀ n c, t.slot n = some c → c.core.place = none

theorem Vacated.refl (s : State) : Vacated s s :=
  ⟨rfl, ⟨rfl, rfl, rfl, rfl, rfl, rfl, rfl, rfl⟩, fun _ => ⟨rfl, rfl⟩, id, id, id, rfl, rfl, rfl⟩

theorem untouched_trans {s t u : State} (h : Untouched s t) (h' : Untouched t u) : Untouched s u :=
  ⟨h'.settings.trans h.settings, h'.response.trans h.response, h'.jobs.trans h.jobs, h'.validation.trans h.validation,
    h'.tickCounter.trans h.tickCounter, h'.pending.trans h.pending, h'.resetLow.trans h.resetLow,
    h'.quiescing.trans h.quiescing⟩

theorem Vacated.trans {s t u : State} (h : Vacated s t) (h' : Vacated t u) : Vacated s u where
  entries := h'.entries.trans h.entries
  untouched := untouched_trans h.untouched h'.untouched
  requests r := ⟨(h'.requests r).1.trans (h.requests r).1, (h'.requests r).2.trans (h.requests r).2⟩
  misses none := h'.misses (h.misses none)
  parked none := h'.parked (h.parked none)
  tags none := h'.tags (h.tags none)
  out := h'.out.trans h.out
  nextAge := h'.nextAge.trans h.nextAge
  choices := h'.choices.trans h.choices

theorem freeSlot_vacated (n : SlotId) (s : State) : Vacated s (freeSlot n s) := by
  cases held : s.slot n with
  | none => rw [freeSlot_of_empty held]; exact .refl s
  | some c =>
    have freed := freeSlot_freed held
    refine ⟨freed.entries, freed.untouched, fun r => ?requests, fun none => ?misses, fun none => ?parked,
      fun none u op => ?tags, freeSlot_out n s, ?nextAge, ?choices⟩
    case requests => rw [freed.requester]; split_ifs <;> exact ⟨rfl, rfl⟩
    case misses =>
      rw [freeSlot_eq held, drainTestOf_missQueue, uncountIf_missQueue, removeSlot_frame]
      simp [released, cancelOps, detach, none]
    case parked =>
      refine List.eq_nil_iff_forall_not_mem.mpr fun p mem => ?_
      have := ((freed.parked p).mp mem).1
      simp [none] at this
    case tags =>
      rw [freed.tags u fun op i out => absurd out (none u op)]
      exact none u op
    case nextAge => rw [freeSlot_eq held, drainTestOf_nextAge, uncountIf_nextAge, removeSlot_frame]; rfl
    case choices => rw [freeSlot_eq held, drainTestOf_choices, uncountIf_choices, removeSlot_frame]; rfl

theorem freeSlot_passVacated (n : SlotId) {s : State} (pass : ∀ n c, s.slot n = some c → c.core.place = none) :
    PassVacated s (freeSlot n s) := by
  cases held : s.slot n with
  | none => rw [freeSlot_of_empty held]; exact ⟨fun _ => rfl, rfl, pass⟩
  | some c =>
    have freed := freeSlot_freed held
    have unplaced := pass n c held
    refine ⟨fun k => freed.unplaced k (by simp [unplaced]), (freed.quiet fun x at_x => ?_).1, fun m d still => ?_⟩
    · simp [unplaced] at at_x
    · rw [freeSlot_slot] at still
      split_ifs at still
      exact pass m d still

theorem freeSlots_vacated (ns : List SlotId) (s : State) : Vacated s (freeSlots ns s) := by
  induction ns generalizing s with
  | nil => exact .refl s
  | cons n ns ih => exact (freeSlot_vacated n s).trans (ih _)

theorem freeSlots_passVacated (ns : List SlotId) {s : State} (pass : ∀ n c, s.slot n = some c → c.core.place = none) :
    PassVacated s (freeSlots ns s) := by
  induction ns generalizing s with
  | nil => exact ⟨fun _ => rfl, rfl, pass⟩
  | cons n ns ih =>
    have first := freeSlot_passVacated n pass
    have rest := ih first.places
    exact ⟨fun k => (rest.apertures k).trans (first.apertures k), rest.reports.trans first.reports, rest.places⟩

theorem freeSlots_occupied (s : State) (n : SlotId) : (freeSlots (occupied s) s).slot n = none := by
  rw [freeSlots_slot]
  refine ite_eq_left_iff.mpr fun absent => ?_
  simpa [occupied] using absent

/-! ### The start of quiescing -/

/-- Every job is cancelled, the bridge quiescing, every VALIDATING aperture ACTIVE again. -/
def calledOff (s : State) : State := cancelAllJobs { s with quiescing := true, apertures := s.apertures.map Aperture.quiesce }

theorem startQuiescing_of_no_walks {s : State} (misses : s.missQueue = []) :
    startQuiescing s = freeSlots (occupied (calledOff s)) (calledOff s) := by
  have none_left : reofferIfLeft (calledOff s) (freeSlots (occupied (calledOff s)) (calledOff s)) =
      freeSlots (occupied (calledOff s)) (calledOff s) :=
    if_neg (by rw [show (calledOff s).missQueue = [] from misses]; exact Nat.not_lt_zero _)
  exact none_left

theorem calledOff_ap (k : ApId) (s : State) : (calledOff s).ap k =
    if (s.ap k).state = .rebinding .validating then { s.ap k with state := .active, pendingList := none } else s.ap k := by
  have mapped : (calledOff s).ap k = (s.ap k).quiesce := Vector.getElem_map _ _
  rw [mapped, Aperture.quiesce]
  by_cases validating : (s.ap k).state = .rebinding .validating
  · rw [if_pos validating, if_pos (beq_iff_eq.mpr validating)]
  · rw [if_neg validating, if_neg (mt beq_iff_eq.mp validating)]

theorem calledOff_not_outstanding {s : State} (none : ∀ t op, s.tag t ≠ .outstanding op) (t : TagId) (op : Op) :
    (calledOff s).tag t ≠ .outstanding op := by
  have same : (calledOff s).tag t = (s.tag t).cancel anyLine true := cancelOps_tag _ _ t _
  rw [same, TagState.cancel_of_not_picked fun op o out => absurd out (none t op)]
  exact none t op

/-! ### RESET -/

/-- The frame of RESET has been clocked in. -/
def resetClocked (s : State) : State := driveFrame 3 (beginEvent s)

theorem exec_reset_of_running {s : State} (up : s.resetLow = false) (running : s.quiescing = false) :
    exec (.reset []) s = .next (offerTags (answerOk 0x3C (startQuiescing (resetClocked s)))) :=
  next_congr (takeCommand_of_passed (n := 0) 0x3C _ up rfl (.inr running))

/-- What the start of quiescing leaves when no walk request is held. -/
theorem startQuiescing_vacated {s : State} (misses : s.missQueue = []) :
    Vacated (calledOff (resetClocked s)) (startQuiescing (resetClocked s)) ∧
    ∀ n, (startQuiescing (resetClocked s)).slot n = none := by
  rw [startQuiescing_of_no_walks (s := resetClocked s) misses]
  exact ⟨freeSlots_vacated _ _, freeSlots_occupied _⟩

theorem offerTags_of_no_jobs {s : State} (misses : s.missQueue = []) (no_grant : grantOnce s = none) (jobs : s.jobs = []) :
    offerTags s = softResetTest s := by
  rw [offerTags, startWalks_of_noneQueued (noneQueued_of_nil misses), grants_of_none 12 no_grant, runValidation_of_no_jobs jobs]

/-- Settles O50: with a write ISSUED the bridge waits for memory; with nothing OUTSTANDING the soft reset follows. -/
theorem resetQuiescesOrCompletes : Obligations.ResetQuiescesOrCompletes := by
  intro s up running
  refine ⟨fun e entries misses unqueued pass parked state issued => ?waits, fun entries misses unqueued ended => ?completes⟩
  all_goals
    obtain ⟨vacated, empty⟩ := startQuiescing_vacated misses
    have run := exec_reset_of_running up running
  case waits =>
    have passed : PassVacated (calledOff (resetClocked s)) (startQuiescing (resetClocked s)) := by
      rw [startQuiescing_of_no_walks (s := resetClocked s) misses]
      exact freeSlots_passVacated _ pass
    generalize startQuiescing (resetClocked s) = u at *
    have entries' : u.postQueue = [e] := vacated.entries.trans entries
    have parked' : u.parked = [] := vacated.parked (by
      show List.filter _ s.parked = []
      rw [parked]
      rfl)
    have jobs : u.jobs = [] := vacated.untouched.jobs
    have no_grant : grantOnce (answerOk 0x3C u) = none := by
      refine grantOnce_of_none_waiting (waitingWrite_of_none_waits entries' fun _ p mem => ?_) (waitingRead_of_empty empty)
      rw [pieceWaits_of_issued (issued p mem), waitingOp_of_parked_nil (s := answerOk 0x3C u) parked']
      rfl
    have not_due : resetDue (answerOk 0x3C u) = false := by simp [resetDue, answerOk, answer, entries']
    have still := (offerTags_of_no_jobs (s := answerOk 0x3C u) (vacated.misses misses) no_grant jobs).trans
      (softResetTest_of_not_due not_due)
    refine ⟨_, run.trans (next_congr still), vacated.untouched.quiescing, jobs, vacated.untouched.validation, rfl, entries',
      passed.reports, vacated.untouched.settings, empty, fun r => vacated.requests r, fun k => ?_⟩
    exact (passed.apertures k).trans (calledOff_ap k (resetClocked s))
  case completes =>
    have released := vacated.tags (calledOff_not_outstanding (s := resetClocked s) ended)
    generalize startQuiescing (resetClocked s) = u at *
    have entries' : u.postQueue = [] := vacated.entries.trans entries
    have no_grant : grantOnce (answerOk 0x3C u) = none :=
      grantOnce_of_none_waiting (waitingWrite_of_nil entries') (waitingRead_of_empty empty)
    have due : resetDue (answerOk 0x3C u) = true :=
      (resetDue_iff _).mpr ⟨vacated.untouched.quiescing, entries', released⟩
    have completed := (offerTags_of_no_jobs (s := answerOk 0x3C u) (vacated.misses misses) no_grant
      vacated.untouched.jobs).trans (softResetTest_of_due due)
    have pending : u.pending = s.pending := vacated.untouched.pending
    have ticks : u.tickCounter = s.tickCounter := vacated.untouched.tickCounter
    have low : u.resetLow = false := vacated.untouched.resetLow.trans up
    have out : u.out = { mgt := List.replicate 3 0xFF } := vacated.out
    have ages : u.nextAge = s.nextAge := vacated.nextAge
    have choices : u.choices = s.choices := vacated.choices
    rw [run, completed, softReset_eq]
    simp only [answerOk, answer, pending, ticks, low, out, ages, choices]
    rfl

end Sys2Proof.Machine
end

section
/-! SUPPORT and CLAIM. WALK_START (R63 to R65): an available engine takes the oldest QUEUED request, and where its walk starts. -/

namespace Sys2Proof.Machine

open Sys2Proof.Claims

/-! ### Where a walk starts (R64) -/

/-- The later of a checkpoint so far and a further place, when that is valid and at or below the target. -/
def laterCheckpoint (places : Checkpoints) (t : Nat) (best : Nat × Nat) (k : Fin 32) : Nat × Nat :=
  (places[k.val]).elim best fun off => if off ≤ t then (k.val, off) else best

theorem startCheckpoint_eq (places : Checkpoints) (t : Nat) :
    startCheckpoint places t = (List.finRange 32).foldl (laterCheckpoint places t) (0, 0) := by
  refine congrArg (fun f => List.foldl f (0, 0) (List.finRange 32)) ?_
  funext best k
  unfold laterCheckpoint
  cases places[k.val] <;> rfl

/-- Going up through the places, the last valid one at or below the target is kept. -/
theorem foldl_laterCheckpoint {places : Checkpoints} {t : Nat} (zero : places[(0 : Fin 32)] = some 0) (l : List (Fin 32))
    (sorted : l.Pairwise (· < ·)) (mem : (0 : Fin 32) ∈ l) : ∃ k ∈ l, ∃ off,
      l.foldl (laterCheckpoint places t) (0, 0) = (k.val, off) ∧ places[k] = some off ∧ off ≤ t ∧
      ∀ j ∈ l, k < j → ∀ off', places[j] = some off' → t < off' := by
  induction l using List.reverseRecOn with
  | nil => exact absurd mem List.not_mem_nil
  | append_singleton l k ih =>
    obtain ⟨sorted', -, below⟩ := List.pairwise_append.mp sorted
    have last : (l ++ [k]).foldl (laterCheckpoint places t) (0, 0) =
        laterCheckpoint places t (l.foldl (laterCheckpoint places t) (0, 0)) k := by rw [List.foldl_append]; rfl
    by_cases reached : ∃ off, places[k] = some off ∧ off ≤ t
    · obtain ⟨off, here, at_or_below⟩ := reached
      refine ⟨k, by simp, off, ?_, here, at_or_below, fun j mem' later => ?_⟩
      · rw [last, laterCheckpoint, show places[k.val] = some off from here, Option.elim, if_pos at_or_below]
      · rcases List.mem_append.mp mem' with before | same
        · exact absurd later (lt_asymm (below j before k (by simp)))
        · exact absurd later (by simp [List.mem_singleton.mp same])
    · have kept : (l ++ [k]).foldl (laterCheckpoint places t) (0, 0) = l.foldl (laterCheckpoint places t) (0, 0) := by
        rw [last, laterCheckpoint]
        cases here : places[k.val] with
        | none => rfl
        | some off => exact if_neg fun below => reached ⟨off, here, below⟩
      have before : (0 : Fin 32) ∈ l := by
        rcases List.mem_append.mp mem with before | same
        · exact before
        · rw [← List.mem_singleton.mp same] at reached
          exact absurd ⟨0, zero, Nat.zero_le _⟩ reached
      obtain ⟨i, mem', off, ends, here, at_or_below, highest⟩ := ih sorted' before
      refine ⟨i, List.mem_append_left _ mem', off, kept.trans ends, here, at_or_below, fun j mem' later off' valid => ?_⟩
      rcases List.mem_append.mp mem' with before | same
      · exact highest j before later off' valid
      · rw [List.mem_singleton.mp same] at valid
        exact not_le.mp fun below => reached ⟨off', valid, below⟩

/-- A walk starts at the point that R64 gives. -/
theorem startPoint_startsAt {a : Aperture} {places : Checkpoints} (zero : places[(0 : Fin 32)] = some 0) (t : Nat) :
    StartsAt a places t (startPoint a places t).1 (startPoint a places t).2 := by
  obtain ⟨k, -, off, ends, here, at_or_below, highest⟩ :=
    foldl_laterCheckpoint (t := t) zero (List.finRange 32) (List.pairwise_lt_finRange 32) (List.mem_finRange 0)
  rw [← startCheckpoint_eq] at ends
  refine ⟨k, off, here, at_or_below, fun j off' later valid => highest j (List.mem_finRange j) later off' valid, ?_⟩
  rw [startPoint, ends]
  cases resume : a.resume with
  | none => exact .inr ⟨fun h absurd' => (by simp at absurd'), rfl, rfl⟩
  | some h =>
    by_cases resumes : k.val * a.stride ≤ h.index ∧ h.index < (k.val + 1) * a.stride ∧ h.start ≤ t
    · refine .inl ⟨h, rfl, resumes.1, resumes.2.1, resumes.2.2, ?_, ?_⟩
      all_goals simp only [if_pos resumes]
    · refine .inr ⟨fun h' same => Option.some.inj same ▸ resumes, ?_, ?_⟩
      all_goals simp only [if_neg resumes]

/-! ### The start of a walk -/

theorem walkOp_eq (w : WalkRequest) (x : Walk) :
    walkOp w x = walkRead x.engine w x.listAddress x.entryCount x.index := by
  have line : lineFirst x.listAddress (lineOfEntry x.listAddress x.index) =
      if (x.listAddress.toNat + 16 * x.index) / 64 = x.listAddress.toNat / 64 then 0
      else (64 * ((x.listAddress.toNat + 16 * x.index) / 64) - x.listAddress.toNat) / 16 := by
    have later : x.listAddress.toNat / 64 ≤ (x.listAddress.toNat + 16 * x.index) / 64 :=
      Nat.div_le_div_right (Nat.le_add_right _ _)
    rw [lineFirst, lineOfEntry, Nat.add_sub_cancel' later]
    exact if_congr (by omega) rfl rfl
  rw [walkOp, line]
  rfl

theorem newWalk_eq (e : EngineId) (w : WalkRequest) (s : State) :
    newWalk e w s = walkFrom e (s.ap w.aperture) (startPoint (s.ap w.aperture) (s.places w.aperture) w.target).1
      (startPoint (s.ap w.aperture) (s.places w.aperture) w.target).2 := rfl

theorem updFirst_append {α : Type} {p : α → Bool} {before after : List α} {x : α} (f : α → α)
    (none : ∀ y ∈ before, p y = false) (here : p x = true) :
    updFirst p f (before ++ x :: after) = before ++ f x :: after := by
  induction before with
  | nil => exact if_pos here
  | cons y ys ih =>
    refine (if_neg (by simp [none y List.mem_cons_self])).trans ?_
    exact congrArg (y :: ·) (ih fun z mem => none z (List.mem_cons_of_mem _ mem))

theorem startWalk_of_unavailable {e : EngineId} {s : State} (h : engineAvailable e s = false) : startWalk e s = s :=
  if_neg (by simp [h])

/-- The oldest QUEUED request is taken, at the point of R64. -/
theorem startWalk_of_available {e : EngineId} {before after : List WalkRequest} {w : WalkRequest} {s : State}
    (available : engineAvailable e s = true) (misses : s.missQueue = before ++ w :: after) (queued : w.walk = none)
    (walking : ∀ y ∈ before, y.walk.isSome = true) {i o : Nat}
    (point : startPoint (s.ap w.aperture) (s.places w.aperture) w.target = (i, o)) :
    startWalk e s = issue (engineTag e)
      (walkRead e w (s.ap w.aperture).listAddress (s.ap w.aperture).entryCount i)
      { s with missQueue := before ++ { w with walk := some (walkFrom e (s.ap w.aperture) i o) } :: after } := by
  have older (y : WalkRequest) (mem : y ∈ before) : y.walk.isNone = false := by
    rw [Option.isNone_eq_false_iff]
    exact walking y mem
  have found : s.missQueue.find? (·.walk.isNone) = some w := by
    rw [misses, List.find?_append, List.find?_eq_none.mpr fun y mem => by simp [older y mem], Option.none_or,
      List.find?_cons_of_pos (by simp [queued])]
  have new : newWalk e w s = walkFrom e (s.ap w.aperture) i o := by rw [newWalk_eq, point]
  have taken : updFirst (·.walk.isNone) (fun v => { v with walk := some (walkFrom e (s.ap w.aperture) i o) }) s.missQueue =
      before ++ { w with walk := some (walkFrom e (s.ap w.aperture) i o) } :: after := by
    rw [misses]
    exact updFirst_append _ older (by simp [queued])
  rw [startWalk, if_pos available, found]
  simp only [new, taken, walkOp_eq]
  rfl

theorem engineAvailable_of_not_on {e : EngineId} {s t : State} (misses : t.missQueue.any (·.onEngine e) = s.missQueue.any (·.onEngine e))
    (tag : t.tag (engineTag e) = s.tag (engineTag e)) : engineAvailable e t = engineAvailable e s := by
  rw [engineAvailable, engineAvailable, misses, tag]

/-- The start of one engine's walk leaves the other engine as it was. -/
theorem engineAvailable_after_start {e f : EngineId} (other : f ≠ e) {before after : List WalkRequest} {w : WalkRequest}
    {x : Walk} {op : Op} {s : State} (misses : s.missQueue = before ++ w :: after) (queued : w.walk = none)
    (engine : x.engine = e) :
    engineAvailable f (issue (engineTag e) op { s with missQueue := before ++ { w with walk := some x } :: after }) =
      engineAvailable f s := by
  have tags : engineTag f ≠ engineTag e := by
    simpa [engineTag, Fin.ext_iff] using other
  refine engineAvailable_of_not_on ?_ ((issue_tag _ _ _ _).trans (if_neg tags))
  have not_f : ({ w with walk := some x } : WalkRequest).onEngine f = w.onEngine f := by
    simp only [WalkRequest.onEngine, queued, engine]
    simpa using Ne.symm other
  rw [misses]
  simp [issue, not_f]

/-- Settles O28. -/
theorem anEngineTakesTheOldestRequest : Obligations.AnEngineTakesTheOldestRequest := by
  refine ⟨fun e before after w s misses queued walking available alone zero => ?one,
    fun w w' after s misses queued queued' available zero zero' => ?two,
    fun w after s misses queued walking available zero => ?first, fun s idle => ?idle⟩
  case one =>
    intro x
    refine ⟨_, _, startPoint_startsAt zero w.target, next_congr (?_ : startWalks (unmoved s) = _)⟩
    have taken := startWalk_of_available (s := unmoved s) available misses queued walking rfl
    have busy (f : EngineId) (other : f ≠ e) : engineAvailable f (startWalk e (unmoved s)) = false := by
      rw [taken]
      exact (engineAvailable_after_start (s := unmoved s) other misses queued rfl).trans (alone f other)
    rw [startWalks]
    rcases Fin.exists_fin_two.mp ⟨e, rfl⟩ with rfl | rfl
    · rw [startWalk_of_unavailable (busy 1 (by decide)), taken]
      rfl
    · rw [startWalk_of_unavailable (s := unmoved s) (alone 0 (by decide)), taken]
      rfl
  case two =>
    intro x x'
    refine ⟨_, _, _, _, startPoint_startsAt zero w.target, startPoint_startsAt zero' w'.target,
      next_congr (?_ : startWalks (unmoved s) = _)⟩
    have taken := startWalk_of_available (s := unmoved s) (before := []) (available 0) misses queued
      (fun y mem => absurd mem List.not_mem_nil) rfl
    have still : engineAvailable 1 (startWalk 0 (unmoved s)) = true := by
      rw [taken]
      exact (engineAvailable_after_start (s := unmoved s) (before := []) (e := 0) (f := 1) (by decide) misses queued rfl).trans (available 1)
    have taken' := startWalk_of_available still (before := [_]) (congrArg State.missQueue taken) queued' (by simp) rfl
    rw [startWalks, taken', taken]
    rfl
  case first =>
    intro x
    refine ⟨_, _, startPoint_startsAt zero w.target, next_congr (?_ : startWalks (unmoved s) = _)⟩
    have taken := startWalk_of_available (s := unmoved s) (before := []) (available 0) misses queued
      (fun y mem => absurd mem List.not_mem_nil) rfl
    have none_left : NoneQueued (startWalk 0 (unmoved s)) := by
      rw [taken]
      exact fun y mem => (List.mem_cons.mp mem).elim (fun same => same ▸ rfl) (walking y)
    rw [startWalks, startWalk_of_noneQueued none_left, taken]
    rfl
  case idle =>
    refine next_congr (?_ : startWalks (unmoved s) = unmoved s)
    rcases idle with walking | busy
    · exact startWalks_of_noneQueued (s := unmoved s) walking
    · rw [startWalks, startWalk_of_unavailable (s := unmoved s) (busy 0), startWalk_of_unavailable (s := unmoved s) (busy 1)]

end Sys2Proof.Machine
end

section
/-! SUPPORT and CLAIM. The end of a validation job (R37 to R40), and what it leaves of a LOADING aperture (R13). -/

namespace Sys2Proof.Machine

open Sys2Proof.Claims

/-! ### The end of the event, with no owner and no walk -/

theorem offerTags_of_no_owners {s : State} (entries : s.postQueue = []) (empty : ∀ n : SlotId, s.slot n = none)
    (misses : s.missQueue = []) (jobs : s.jobs = []) (going : s.quiescing = false) : offerTags s = s :=
  offerTags_of_nothingWaits (noneWaits_of_no_owners entries empty misses jobs going)

theorem offerTags_post_of_no_owners {s : State} (p : Report) (entries : s.postQueue = [])
    (empty : ∀ n : SlotId, s.slot n = none) (misses : s.missQueue = []) (jobs : s.jobs = []) (going : s.quiescing = false) :
    offerTags (post p s) = post p s :=
  offerTags_of_nothingWaits (nothingWaits_congr (sameOffers_post p s) (noneWaits_of_no_owners entries empty misses jobs going))

/-! ### Processing a line -/

/-- A line that fails the checks ends the job. -/
theorem processLines_of_failed {j : Job} {v : Validation} {bytes : List Byte} {f : JobFailure} {s : State}
    (checked : checkEntries j.list.tag (s.ap j.aperture).windowSize (entriesAt j v.nextProcess bytes) v = .failed f)
    (n : Nat) : processLines (n + 1) j bytes v s = failJob j f s := by
  rw [entriesAt] at checked
  simp only [processLines, checked]

/-- The last entries pass, and the job succeeds. -/
theorem processLines_of_all_passed {j : Job} {v w : Validation} {bytes : List Byte} {s : State}
    (checked : checkEntries j.list.tag (s.ap j.aperture).windowSize (entriesAt j v.nextProcess bytes) v = .passed w)
    (all : w.nextEntry = j.list.count) (n : Nat) : processLines (n + 1) j bytes v s = succeedJob j w s := by
  rw [entriesAt] at checked
  simp only [processLines, checked, if_pos all]

/-! ### The end of a line's read -/

section
variable {j : Job} {v : Validation} {s : State} (jobs : s.jobs = [j]) (record : s.validation = some v)
include jobs record

theorem lineOk_of_next (bytes : List Byte) : lineOk v.nextProcess bytes s = processLines 2 j bytes v s := by
  simp [lineOk, jobs, record]

theorem lineOk_of_later {k : Nat} (later : k ≠ v.nextProcess) (bytes : List Byte) :
    lineOk k bytes s = { s with validation := some { v with held := some (k, bytes) } } := by
  simp [lineOk, jobs, record, later]

theorem lineFailed_of_next (m : MemCause) (t : TagId) : lineFailed v.nextProcess m t s = failJob j
    { cause := .memoryError, sub := some (.mem m), index := lineFirst j.list.address v.nextProcess, tag := some t } s := by
  simp [lineFailed, jobs, record, lineJobFailure]

theorem lineFailed_of_later {k : Nat} (later : k ≠ v.nextProcess) (m : MemCause) (t : TagId) :
    lineFailed k m t s = { s with validation := some { v with failure := some { line := k, cause := m, tag := t } } } := by
  simp [lineFailed, jobs, record, later]

end

section
variable {t : TagId} {k : Nat} {op : Op} {j : Job} {v : Validation} {s : State} (line : LineIn t k op j v s)
include line

theorem exec_ok_of_line (lanes : Lanes) : exec (.responseOk t lanes) s = .next (offerTags
    (lineOk k (bytesOfLanes op.address op.length lanes) (setTag t .free (unmoved s)))) := by
  refine (exec_responseOk_of_running line.up line.tag line.live lanes).trans ?_
  rw [opOk, line.line]

theorem exec_fails_of_line {i : Instr} {c : Cause} {x : TagState} (fails : Fails t op i c x s) :
    (∀ op', x ≠ .outstanding op') ∧ ∃ m, c = MemCause.toCause m ∧
      exec i s = .next (offerTags (lineFailed k m t (setTag t x (unmoved s)))) := by
  obtain ⟨ended, m, r, cause, runs⟩ := exec_of_fails line.up line.tag line.live fails
  refine ⟨ended, m, cause.symm, runs.trans ?_⟩
  rw [opFailed, line.line]

end

/-! ### The job leaves the queue -/

theorem cancelOps_of_none_picked {pick : OpName → Bool} {gone : Bool} {s : State} (parked : s.parked = [])
    (tags : ∀ u op o, s.tag u = .outstanding op → op.owner = some o → pick o = false) : cancelOps pick gone s = s := by
  have same : s.tags.map (TagState.cancel pick gone) = s.tags := by
    refine Vector.ext fun i lt => ?_
    rw [Vector.getElem_map]
    exact TagState.cancel_of_not_picked (tags ⟨i, lt⟩) gone
  rw [cancelOps, same, parked, List.filter_nil, ← parked]

theorem anyLine_iff (o : OpName) : anyLine o = true ↔ ∃ k, o = .line k := by
  cases o <;> simp [anyLine]

theorem failJob_of_loading {j : Job} {s : State} (load : j.purpose = .load) (loading : (s.ap j.aperture).state = .loading)
    (f : JobFailure) :
    failJob j f s = post (loadFailedReport j.aperture f) (freed j.aperture (closeJob s)) := by
  have same : (closeJob s).ap j.aperture = s.ap j.aperture := ap_congr (s := s) rfl _
  rw [failJob, load]
  exact if_pos (by rw [same, loading]; rfl)

/-- The state in which the job's last read has ended and the job has left the queue. -/
def jobOver (t : TagId) (x : TagState) (s : State) : State := setTag t x { unmoved s with jobs := [], validation := none }

section
variable {t : TagId} {op : Op} {j : Job} {v : Validation} {s : State} (last : LastLine t op j v s)
include last

/-- No other operation is a line's, so none is left to the port. -/
theorem closeJob_of_lastLine {x : TagState} (ended : ∀ op', x ≠ .outstanding op') (y : Option Validation) :
    closeJob { setTag t x (unmoved s) with validation := y } = jobOver t x s := by
  have jobs : s.jobs.tail = [] := by rw [last.jobs]; rfl
  have no_line (u : TagId) (op' : Op) (o : OpName) (flies : (jobOver t x s).tag u = .outstanding op')
      (owner : op'.owner = some o) : anyLine o = false := by
    have here : (if u = t then x else s.tag u) = .outstanding op' := (setTag_tag _ _ _ _).symm.trans flies
    by_cases same : u = t
    · exact absurd ((if_pos same).symm.trans here) (ended op')
    · refine Bool.eq_false_iff.mpr fun line => ?_
      obtain ⟨k, rfl⟩ := (anyLine_iff o).mp line
      exact same (last.only u op' k ((if_neg same).symm.trans here) owner)
  refine Eq.trans ?_ (cancelOps_of_none_picked (s := jobOver t x s) (gone := true) last.parked no_line)
  rw [jobOver, ← jobs]
  rfl

/-- A LOAD's job that fails leaves its aperture FREE with LOAD_FAILED, whatever the engine's record has come to. -/
theorem failJob_of_load {x : TagState} (ended : ∀ op', x ≠ .outstanding op') (load : j.purpose = .load)
    (loading : (s.ap j.aperture).state = .loading) (f : JobFailure) (y : Option Validation) :
    failJob j f { setTag t x (unmoved s) with validation := y } =
      post (loadFailedReport j.aperture f) (freed j.aperture (jobOver t x s)) := by
  rw [← closeJob_of_lastLine last ended y]
  exact failJob_of_loading (s := { setTag t x (unmoved s) with validation := y }) load loading f

end

theorem offerTags_after_loadFailed {u : State} (none : NoTraffic u) (jobs : u.jobs = []) (going : u.quiescing = false)
    (k : ApId) (f : JobFailure) :
    offerTags (post (loadFailedReport k f) (freed k u)) = post (loadFailedReport k f) (freed k u) :=
  offerTags_post_of_no_owners _ none.entries none.slots none.misses jobs going

theorem noTraffic_jobOver {s : State} (none : NoTraffic s) (t : TagId) (x : TagState) : NoTraffic (jobOver t x s) :=
  ⟨none.entries, none.slots, none.misses⟩

/-- Settles O36. -/
theorem aLoadJobEndsActiveOrFree : Obligations.ALoadJobEndsActiveOrFree := by
  intro t op j v s last none load loading k base
  have free (op' : Op) : TagState.free ≠ .outstanding op' := TagState.noConfusion
  refine ⟨fun lanes w checked all => ?done, fun lanes f checked => ?failed, fun i c x fails => ?memory⟩
  case done =>
    have ends : succeedJob j w (setTag t .free (unmoved s)) = loadDone k j.list
        { mapped := w.offset, stride := w.stride, places := w.build } (base .free) := by
      rw [succeedJob, load]
      exact congrArg (loadDone k j.list _) (closeJob_of_lastLine last free s.validation)
    rw [exec_ok_of_line last.toLineIn, lineOk_of_next (s := setTag t .free (unmoved s)) last.jobs last.record,
      processLines_of_all_passed (s := setTag t .free (unmoved s)) checked all, ends, loadDone,
      if_pos (by rw [show (base .free).ap k = s.ap k from rfl, loading]; rfl)]
    exact next_congr (offerTags_post_of_no_owners _ none.entries none.slots none.misses rfl last.going)
  case failed =>
    rw [exec_ok_of_line last.toLineIn, lineOk_of_next (s := setTag t .free (unmoved s)) last.jobs last.record,
      processLines_of_failed (s := setTag t .free (unmoved s)) checked]
    refine next_congr ?_
    exact (congrArg offerTags (failJob_of_load last free load loading f s.validation)).trans
      (offerTags_after_loadFailed (noTraffic_jobOver none t .free) rfl last.going k f)
  case memory =>
    obtain ⟨ended, m, cause, runs⟩ := exec_fails_of_line last.toLineIn fails
    refine ⟨m, cause, runs.trans (next_congr ?_)⟩
    rw [lineFailed_of_next (s := setTag t x (unmoved s)) last.jobs last.record]
    exact (congrArg offerTags (failJob_of_load last ended load loading _ s.validation)).trans
      (offerTags_after_loadFailed (noTraffic_jobOver none t x) rfl last.going k _)

end Sys2Proof.Machine
end

section
/-! SUPPORT and CLAIM. Reading a list (R28 to R32): when the validation engine issues a line's read, and under which tag. -/

namespace Sys2Proof.Machine

open Sys2Proof.Claims

/-! ### When a line is due -/

theorem lineOp_eq (j : Job) (k : Nat) : lineOp j k = lineRead j k := rfl

theorem newLineDue_iff (j : Job) (v : Validation) :
    newLineDue j v = true ↔ v.nextIssue ≤ lastLine j ∧ v.unprocessed < 2 ∧ v.failure = none := by
  simp [newLineDue, lineCount, lastLine, and_assoc]

theorem newLineDue_eq_false {j : Job} {v : Validation}
    (h : v.failure ≠ none ∨ 2 ≤ v.unprocessed ∨ lastLine j < v.nextIssue) : newLineDue j v = false := by
  refine Bool.eq_false_iff.mpr fun due => ?_
  obtain ⟨left, few, unfailed⟩ := (newLineDue_iff j v).mp due
  rcases h with failed | two | last
  · exact failed unfailed
  · omega
  · omega

/-- The record of the engine once it has issued its next line. -/
def Validation.issuedNext (v : Validation) : Validation :=
  { v with nextIssue := v.nextIssue + 1, unprocessed := v.unprocessed + 1 }

/-! ### The issue of one line -/

theorem validation_tag {t : TagId} (h : tagClass t = .validation) : t.val = 2 ∨ t.val = 3 := by
  revert t
  decide

theorem lowest_validation_two {s : State} (h : s.tag 2 = .free) : Lowest .validation 2 s :=
  ⟨rfl, h, fun u below cls => by
    have : u.val < 2 := below
    have := validation_tag cls
    omega⟩

theorem lowest_validation_of_other {t u : TagId} {s : State} (cls : tagClass t = .validation) (cls' : tagClass u = .validation)
    (other : u ≠ t) (free : s.tag t = .free) (busy : s.tag u ≠ .free) : Lowest .validation t s := by
  refine ⟨cls, free, fun w below cls'' => ?_⟩
  have same : w = u := by
    have := validation_tag cls
    have := validation_tag cls'
    have := validation_tag cls''
    have : u.val ≠ t.val := Fin.val_ne_of_ne other
    have : w.val < t.val := below
    exact Fin.ext (by omega)
  exact same ▸ busy

theorem issueLine_of_noneFree {s : State} (h : NoneFree .validation s) : issueLine s = s := by
  rw [issueLine, freeTag_of_noneFree h]

section
variable {j : Job} {js : List Job} {v : Validation} {s : State} (jobs : s.jobs = j :: js) (record : s.validation = some v)
  (parked : s.parked = [])
include jobs record parked

theorem issueLine_of_not_due (stopped : newLineDue j v = false) : issueLine s = s := by
  rw [issueLine, jobs, record, waitingLine_of_none (by simp [parked]), List.head?_cons]
  cases freeTag .validation s with
  | none => rfl
  | some t => exact if_neg (by simp [stopped])

theorem issueLine_of_due {t : TagId} (lowest : Lowest .validation t s) (due : newLineDue j v = true) :
    issueLine s = issue t (lineRead j v.nextIssue) { s with validation := some v.issuedNext } := by
  rw [issueLine, jobs, record, waitingLine_of_none (by simp [parked]), List.head?_cons, freeTag_of_lowest lowest]
  exact if_pos due

end

theorem issueLine_of_jobs_nil_or {s : State} (parked : s.parked = [])
    (h : s.jobs = [] ∨ NoneFree .validation s ∨
      (∃ v, s.validation = some v ∧ (2 ≤ v.unprocessed ∨ v.failure ≠ none)) ∨
      (∃ j js v, s.jobs = j :: js ∧ s.validation = some v ∧ lastLine j < v.nextIssue)) : issueLine s = s := by
  rcases h with none | busy | ⟨v, record, stopped⟩ | ⟨j, js, v, jobs, record, last⟩
  · exact issueLine_of_no_jobs none
  · exact issueLine_of_noneFree busy
  · cases jobs : s.jobs with
    | nil => exact issueLine_of_no_jobs jobs
    | cons j js => exact issueLine_of_not_due jobs record parked (newLineDue_eq_false (stopped.elim (.inr ∘ .inl) .inl))
  · exact issueLine_of_not_due jobs record parked (newLineDue_eq_false (.inr (.inr last)))

/-! ### The start of a job -/

theorem startJob_of_waiting {j : Job} {js : List Job} {s : State} (jobs : s.jobs = j :: js) (waiting : j.running = false) :
    startJob s = { s with jobs := { j with running := true } :: js, validation := some (firstRecord j.list 0) } := by
  rw [startJob, jobs]
  exact if_neg (by simp [waiting])

/-- The state in which the first job has begun, so many lines of it issued. -/
def begun (j : Job) (js : List Job) (issued : Nat) (s : State) : State :=
  { unmoved s with jobs := { j with running := true } :: js, validation := some (firstRecord j.list issued) }

theorem startJob_and_first_read {j : Job} {js : List Job} {s : State} (jobs : s.jobs = j :: js) (waiting : j.running = false)
    (parked : s.parked = []) (two : s.tag 2 = .free) :
    issueLine (startJob (unmoved s)) = issue 2 (lineRead j 0) (begun j js 1 s) := by
  rw [startJob_of_waiting (s := unmoved s) jobs waiting]
  exact issueLine_of_due (j := { j with running := true }) (s := begun j js 0 s) rfl rfl parked
    (lowest_validation_two (s := begun j js 0 s) two) ((newLineDue_iff _ _).mpr ⟨Nat.zero_le _, Nat.zero_lt_two, rfl⟩)

theorem issue_setTag (t : TagId) (op : Op) (x : TagState) (s : State) : issue t op (setTag t x s) = issue t op s := by
  simp [issue, setTag]

/-! ### Checking a line -/

/-- Checking entries moves only the running offset, the next entry and the build buffer. -/
theorem Validation.pass_kept (v : Validation) (e : RawEntry) : (v.pass e).nextIssue = v.nextIssue ∧
    (v.pass e).nextProcess = v.nextProcess ∧ (v.pass e).unprocessed = v.unprocessed ∧ (v.pass e).held = v.held ∧
    (v.pass e).failure = v.failure := by
  simp only [Validation.pass, Validation.store]
  split <;> simp

theorem checkEntries_kept {tag : Byte} {window : Nat} {es : List RawEntry} {v w : Validation}
    (passed : checkEntries tag window es v = .passed w) : w.nextIssue = v.nextIssue ∧ w.nextProcess = v.nextProcess ∧
      w.unprocessed = v.unprocessed ∧ w.held = v.held ∧ w.failure = v.failure := by
  induction es generalizing v with
  | nil => cases passed; exact ⟨rfl, rfl, rfl, rfl, rfl⟩
  | cons e es ih =>
    obtain ⟨-, -, rest⟩ := checkEntries_cons_passed passed
    obtain ⟨issued, processed, unprocessed, held, failure⟩ := v.pass_kept e
    rw [← issued, ← processed, ← unprocessed, ← held, ← failure]
    exact ih rest

/-- What checking comes to, where it fails, is decided by the running offset and the next entry. -/
theorem checkEntries_failed_congr {tag : Byte} {window : Nat} {es : List RawEntry} {v w : Validation} {f : JobFailure}
    (offset : w.offset = v.offset) (next : w.nextEntry = v.nextEntry)
    (failed : checkEntries tag window es v = .failed f) : checkEntries tag window es w = .failed f := by
  induction es generalizing v w with
  | nil => cases failed
  | cons e es ih =>
    cases check : checkEntry tag e with
    | some b =>
      rw [checkEntries_of_bad check] at failed ⊢
      rw [next]
      exact failed
    | none =>
      by_cases fits : v.offset + e.bytes ≤ window
      · rw [checkEntries_of_good check fits] at failed
        rw [checkEntries_of_good check (by rw [offset]; exact fits)]
        exact ih (v := v.pass e) (w := w.pass e) (congrArg (· + e.bytes) offset) (congrArg (· + 1) next) failed
      · rw [checkEntries_of_long check (not_le.mp fits)] at failed
        rw [checkEntries_of_long check (by rw [offset]; exact not_le.mp fits), next]
        exact failed

/-! ### After a line that passes -/

/-- The record of the engine once a line has been processed. -/
def Validation.processedNext (v : Validation) : Validation :=
  { v with nextProcess := v.nextProcess + 1, unprocessed := v.unprocessed - 1 }

section
variable {j : Job} {v w y : Validation} {bytes : List Byte} {s : State}
  (checked : checkEntries j.list.tag (s.ap j.aperture).windowSize (entriesAt j v.nextProcess bytes) v = .passed w)
  (more : w.nextEntry ≠ j.list.count)
  (record : (issueLine { s with validation := some w.processedNext }).validation = some y)
include checked more record

theorem processLines_of_none_held (held : y.held = none) (unfailed : y.failure = none) (n : Nat) :
    processLines (n + 1) j bytes v s = issueLine { s with validation := some w.processedNext } := by
  rw [entriesAt] at checked
  rw [Validation.processedNext] at record ⊢
  simp only [processLines, checked, if_neg more, advanceLine, record, held, unfailed]

theorem processLines_of_next_failed (held : y.held = none) {f : LineFailure} (failed : y.failure = some f)
    (next : f.line = y.nextProcess) (n : Nat) : processLines (n + 1) j bytes v s =
      failJob j (lineJobFailure j f) (issueLine { s with validation := some w.processedNext }) := by
  rw [entriesAt] at checked
  rw [Validation.processedNext] at record ⊢
  simp only [processLines, checked, if_neg more, advanceLine, record, held, failed, if_pos next]

theorem processLines_of_next_held {bs : List Byte} (held : y.held = some (y.nextProcess, bs)) (n : Nat) :
    processLines (n + 1) j bytes v s = processLines n j bs { y with held := none }
      { issueLine { s with validation := some w.processedNext } with validation := some { y with held := none } } := by
  rw [entriesAt] at checked
  rw [Validation.processedNext] at record ⊢
  simp only [processLines, checked, if_neg more, advanceLine, record, held, if_true]

end

/-- With a running job whose engine has no line to issue, no traffic and no reset, the event ends. -/
theorem offerTags_of_running {j : Job} {js : List Job} {v : Validation} {s : State} (none : NoTraffic s)
    (going : s.quiescing = false) (jobs : s.jobs = j :: js) (running : j.running = true) (record : s.validation = some v)
    (parked : s.parked = []) (stopped : v.failure ≠ .none ∨ 2 ≤ v.unprocessed ∨ lastLine j < v.nextIssue) :
    offerTags s = s :=
  offerTags_of_nothingWaits ⟨going, noneQueued_of_nil none.misses,
    .inr ⟨j, js, v, jobs, running, record, stopped, by simp [parked]⟩, waitingWrite_of_nil none.entries,
    waitingRead_of_empty none.slots⟩

/-- The state in which a line's read has ended, with the engine's record. -/
def lineOver (t : TagId) (x : TagState) (v : Validation) (s : State) : State :=
  { setTag t x (unmoved s) with validation := some v }

theorem noTraffic_lineOver {s : State} (none : NoTraffic s) (t : TagId) (x : TagState) (v : Validation) :
    NoTraffic (lineOver t x v s) := ⟨none.entries, none.slots, none.misses⟩

/-- The state in which a line has passed, its successor's read has gone out, and the held line is next. -/
def readBehind (t : TagId) (j : Job) (w : Validation) (s : State) : State :=
  { issue 2 (lineRead j w.processedNext.nextIssue)
      { lineOver t .free w.processedNext s with validation := some w.processedNext.issuedNext } with
    validation := some { w.processedNext.issuedNext with held := none } }

theorem readBehind_ap (t : TagId) (j : Job) (w : Validation) (s : State) (k : ApId) :
    (readBehind t j w s).ap k = s.ap k :=
  ap_congr (by simp [readBehind, lineOver, unmoved]) k

/-- With the tag of the line whose read ends, and the other, FREE, every validation tag is. -/
theorem free_of_both {t u : TagId} {s : State} (cls : tagClass t = .validation) (cls' : tagClass u = .validation)
    (other : u ≠ t) (free : s.tag u = .free) (w : Validation) (c : TagId) (validation : tagClass c = .validation) :
    (lineOver t .free w.processedNext s).tag c = .free := by
  refine (setTag_tag t c _ _).trans ?_
  by_cases same : c = t
  · exact if_pos same
  · have rest : c = u := by
      have := validation_tag cls
      have := validation_tag cls'
      have := validation_tag validation
      have : u.val ≠ t.val := Fin.val_ne_of_ne other
      have : c.val ≠ t.val := Fin.val_ne_of_ne same
      exact Fin.ext (by omega)
    rw [if_neg same, rest]
    exact free

theorem freed_tags_out_comm (k : ApId) (v : Vector TagState 16) (o : Outputs) (s : State) :
    { freed k s with tags := v, out := o } = freed k { s with tags := v, out := o } := rfl

theorem freed_out (k : ApId) (s : State) : (freed k s).out = s.out := rfl

theorem freed_tag (k : ApId) (t : TagId) (s : State) : (freed k s).tag t = s.tag t := rfl

theorem closeJob_jobs (s : State) : (closeJob s).jobs = s.jobs.tail := rfl

theorem readBehind_jobs (t : TagId) (j : Job) (w : Validation) (s : State) : (readBehind t j w s).jobs = s.jobs := by
  simp [readBehind, lineOver, unmoved]

theorem readBehind_quiescing (t : TagId) (j : Job) (w : Validation) (s : State) :
    (readBehind t j w s).quiescing = s.quiescing := by
  simp [readBehind, lineOver, unmoved]

theorem post_tags_out_comm (p : Report) (v : Vector TagState 16) (o : Outputs) (s : State) :
    { post p s with tags := v, out := o } = post p { s with tags := v, out := o } := by
  unfold post
  split <;> rfl

section
variable {t : TagId} {k : Nat} {op : Op} {j : Job} {v w : Validation} {s : State} (line : LineIn t k op j v s)

/-- The job ends over a read that is still in flight, which is left to the port (R40). -/
theorem closeJob_readBehind (x : TagId) : (closeJob (readBehind t j w s)).tag x =
    if x = 2 then .outstanding { lineRead j w.nextIssue with
      timer := s.settings.responseLimit, cancelled := true, owner := none }
    else ((lineOver t .free w.processedNext s).tag x).cancel anyLine true := by
  have here : (closeJob (readBehind t j w s)).tag x = ((readBehind t j w s).tag x).cancel anyLine true :=
    cancelOps_tag _ _ _ _
  have issued : (readBehind t j w s).tag x = if x = 2 then
      .outstanding { lineRead j w.nextIssue with timer := s.settings.responseLimit }
    else (lineOver t .free w.processedNext s).tag x := issue_tag _ _ _ _
  rw [here, issued]
  by_cases same : x = 2
  · rw [if_pos same, if_pos same]
    rfl
  · rw [if_neg same, if_neg same]

theorem closeJob_readBehind_mem : (closeJob (readBehind t j w s)).out.mem =
    [{ tag := 2, kind := .mread, address := (lineRead j w.nextIssue).address, length := (lineRead j w.nextIssue).length
       data := [] }] := rfl

include line

theorem closeJob_readBehind_rest : { closeJob (readBehind t j w s) with tags := s.tags, out := s.out } =
    { s with jobs := [], validation := none } := by
  have jobs : s.jobs.tail = [] := by rw [line.jobs]; rfl
  have parked : s.parked.filter (fun p => !(p.op.owner.elim false anyLine)) = s.parked := by rw [line.parked]; rfl
  rw [closeJob, cancelOps, readBehind, lineOver]
  simp only [issue_jobs, issue_parked, setTag_jobs, setTag_parked, unmoved]
  rw [← jobs]
  exact congrArg (fun ps => ({ s with jobs := s.jobs.tail, validation := none, parked := ps } : State)) parked

theorem noTraffic_closeJob_readBehind (none : NoTraffic s) : NoTraffic (closeJob (readBehind t j w s)) :=
  have rest := closeJob_readBehind_rest (t := t) (w := w) line
  ⟨(congrArg State.postQueue rest).trans none.entries,
    fun n => (slot_congr (congrArg State.slots rest) n).trans (none.slots n),
    (congrArg State.missQueue rest).trans none.misses⟩

end

/-- A line passes, the next read goes out, and the line held fails: the job ends over that read. -/
theorem exec_ok_leaves_read_behind {t u : TagId} {op : Op} {j : Job} {v w : Validation} {s : State} {lanes : Lanes} {bytes : List Byte} {f : JobFailure}
    (line : LineIn t v.nextProcess op j v s) (none : NoTraffic s) (cls : tagClass t = .validation)
    (cls' : tagClass u = .validation) (other : u ≠ t) (unfailed : v.failure = .none) (two : v.unprocessed = 2)
    (left : v.nextIssue ≤ lastLine j)
    (checked : checkEntries j.list.tag (s.ap j.aperture).windowSize
      (entriesAt j v.nextProcess (bytesOfLanes op.address op.length lanes)) v = .passed w)
    (more : w.nextEntry ≠ j.list.count) (held : v.held = some (v.nextProcess + 1, bytes)) (free : s.tag u = .free)
    (load : j.purpose = .load) (loading : (s.ap j.aperture).state = .loading)
    (failed : checkEntries j.list.tag (s.ap j.aperture).windowSize (entriesAt j (v.nextProcess + 1) bytes) w = .failed f) :
    exec (.responseOk t lanes) s =
      .next (post (loadFailedReport j.aperture f) (freed j.aperture (closeJob (readBehind t j w s)))) := by
  obtain ⟨issued, processed, unprocessed, kept, failure⟩ := checkEntries_kept checked
  have due : newLineDue j w.processedNext = true := (newLineDue_iff _ _).mpr
    ⟨issued.le.trans left, by simp [Validation.processedNext, unprocessed, two], failure.trans unfailed⟩
  have read := issueLine_of_due (s := lineOver t .free w.processedNext s) line.jobs rfl line.parked
    (lowest_validation_two (free_of_both cls cls' other free w 2 rfl)) due
  have ends := processLines_of_next_held (s := setTag t .free (unmoved s)) checked more (congrArg State.validation read)
    (bs := bytes) (kept.trans (held.trans (by rw [← processed]; rfl))) 1
  have behind : { issueLine (lineOver t .free w.processedNext s) with
      validation := some { w.processedNext.issuedNext with held := .none } } = readBehind t j w s :=
    congrArg (fun u : State => { u with validation := some { w.processedNext.issuedNext with held := .none } }) read
  have next : ({ w.processedNext.issuedNext with held := .none } : Validation).nextProcess = v.nextProcess + 1 :=
    congrArg (· + 1) processed
  have fails := processLines_of_failed (bytes := bytes) (f := f) (j := j)
    (v := { w.processedNext.issuedNext with held := .none }) (s := readBehind t j w s)
    (checkEntries_failed_congr (v := w) rfl rfl (by rw [next, readBehind_ap]; exact failed)) 0
  have ended := failJob_of_loading (s := readBehind t j w s) load ((readBehind_ap t j w s j.aperture).symm ▸ loading) f
  rw [exec_ok_of_line line, lineOk_of_next (s := setTag t .free (unmoved s)) line.jobs line.record, ends]
  refine next_congr ((congrArg (fun u => offerTags (processLines 1 j bytes _ u)) behind).trans ?_)
  rw [fails, ended]
  exact offerTags_after_loadFailed (noTraffic_closeJob_readBehind line none) (by rw [closeJob_jobs, readBehind_jobs, line.jobs]; rfl)
    (by rw [closeJob_quiescing, readBehind_quiescing, line.going]) _ _

/-- Settles O35. -/
theorem jobsStartAndReadTheirLists : Obligations.JobsStartAndReadTheirLists := by
  refine ⟨fun j js s jobs waiting parked two three positive => ?start,
    fun j js v t s jobs parked record lowest unfailed left one => ?next, fun s parked => ⟨fun none => ?no_job, fun idle => ?idle⟩,
    fun t k op j v s line none running cls out_of_turn two => ⟨fun lanes => ?held, fun i c x fails => ?recorded⟩,
    fun t op j v w f lanes s last none running cls unheld failed next checked more load loading => ?failure,
    fun t u op j v w lanes s line none running cls cls' other unfailed two left checked more =>
      ⟨fun unheld busy => ?read, fun bytes f held free load loading failed => ?left⟩⟩
  case start =>
    intro base more
    have first := startJob_and_first_read jobs waiting parked two
    refine ⟨fun lines => next_congr (?_ : runValidation (unmoved s) = _),
      fun single => next_congr (?_ : runValidation (unmoved s) = _)⟩
    · have lowest : Lowest .validation 3 (issue 2 (lineRead j 0) (begun j js 1 s)) :=
        lowest_validation_of_other rfl (u := 2) rfl (by decide) ((issue_tag _ _ _ _).trans three)
          (by rw [issue_tag, if_pos rfl]; exact TagState.noConfusion)
      rw [runValidation, first]
      exact issueLine_of_due (j := { j with running := true }) (s := issue 2 (lineRead j 0) (begun j js 1 s)) rfl rfl parked
        lowest ((newLineDue_iff _ _).mpr ⟨lines, Nat.one_lt_two, rfl⟩)
    · rw [runValidation, first]
      refine issueLine_of_not_due (j := { j with running := true }) (s := issue 2 (lineRead j 0) (begun j js 1 s)) rfl rfl
        parked (newLineDue_eq_false (.inr (.inr ?_)))
      exact (show lastLine j = 0 from single) ▸ Nat.zero_lt_one
  case next =>
    have due : newLineDue j v = true := (newLineDue_iff j v).mpr ⟨left, by omega, unfailed⟩
    have first := issueLine_of_due (s := unmoved s) jobs record parked lowest due
    have no_more : newLineDue j v.issuedNext = false := newLineDue_eq_false (.inr (.inl (by rw [Validation.issuedNext, one])))
    refine next_congr (?_ : issueLine (issueLine (unmoved s)) = _)
    rw [first, issueLine_of_not_due (v := v.issuedNext) (s := issue t (lineRead j v.nextIssue)
      { unmoved s with validation := some v.issuedNext }) jobs rfl parked no_more, Validation.issuedNext, one]
  case no_job =>
    exact next_congr (runValidation_of_noLineDue (s := unmoved s) (.inl none))
  case idle =>
    have still := issueLine_of_jobs_nil_or (s := unmoved s) parked idle
    refine next_congr (?_ : issueLine (issueLine (unmoved s)) = _)
    rw [still, still]
  case held =>
    rw [exec_ok_of_line line, lineOk_of_later (s := setTag t .free (unmoved s)) line.jobs line.record out_of_turn]
    exact next_congr (offerTags_of_running (s := lineOver t .free _ s) (noTraffic_lineOver none t .free _) line.going line.jobs
      running rfl line.parked (.inr (.inl two.ge)))
  case recorded =>
    obtain ⟨ended, m, cause, runs⟩ := exec_fails_of_line line fails
    refine ⟨m, cause, runs.trans (next_congr ?_)⟩
    rw [lineFailed_of_later (s := setTag t x (unmoved s)) line.jobs line.record out_of_turn]
    exact offerTags_of_running (s := lineOver t x _ s) (noTraffic_lineOver none t x _) line.going line.jobs
      running rfl line.parked (.inl (Option.some_ne_none _))
  case failure =>
    obtain ⟨-, processed, -, held, failure⟩ := checkEntries_kept checked
    have recorded : w.processedNext.failure = some f := failure.trans failed
    have still : issueLine (lineOver t .free w.processedNext s) = lineOver t .free w.processedNext s :=
      issueLine_of_not_due (s := lineOver t .free w.processedNext s) last.jobs rfl last.parked
        (newLineDue_eq_false (.inl (by rw [recorded]; exact Option.some_ne_none f)))
    have ends := processLines_of_next_failed (s := setTag t .free (unmoved s)) checked more (congrArg State.validation still)
      (held.trans unheld) recorded (next.trans (congrArg (· + 1) processed).symm) 1
    rw [exec_ok_of_line last.toLineIn, lineOk_of_next (s := setTag t .free (unmoved s)) last.jobs last.record, ends]
    refine next_congr ((congrArg (fun u => offerTags (failJob j (lineJobFailure j f) u)) still).trans ?_)
    refine (congrArg offerTags (failJob_of_load last (fun _ => TagState.noConfusion) load loading _ _)).trans ?_
    exact offerTags_after_loadFailed (noTraffic_jobOver none t .free) rfl last.going j.aperture _
  case read =>
    obtain ⟨issued, processed, unprocessed, held, failure⟩ := checkEntries_kept checked
    have due : newLineDue j w.processedNext = true := (newLineDue_iff _ _).mpr
      ⟨issued.le.trans left, by simp [Validation.processedNext, unprocessed, two], failure.trans unfailed⟩
    have lowest : Lowest .validation t (lineOver t .free w.processedNext s) :=
      lowest_validation_of_other cls cls' other ((setTag_tag _ _ _ _).trans (if_pos rfl))
        fun free => busy ((if_neg other).symm.trans ((setTag_tag t u _ _).symm.trans free))
    have read := issueLine_of_due (s := lineOver t .free w.processedNext s) line.jobs rfl line.parked lowest due
    have ends := processLines_of_none_held (s := setTag t .free (unmoved s)) checked more (congrArg State.validation read)
      (held.trans unheld) (failure.trans unfailed) 1
    rw [exec_ok_of_line line, lineOk_of_next (s := setTag t .free (unmoved s)) line.jobs line.record, ends]
    refine next_congr ((congrArg offerTags read).trans ?_)
    have shape : w.processedNext.issuedNext =
        { w with nextProcess := v.nextProcess + 1, nextIssue := v.nextIssue + 1 } := by
      simp [Validation.processedNext, Validation.issuedNext, issued, processed, unprocessed, two]
    have again : issue t (lineRead j w.processedNext.nextIssue)
        { lineOver t .free w.processedNext s with validation := some w.processedNext.issuedNext } =
        issue t (lineRead j v.nextIssue) { unmoved s with validation := some w.processedNext.issuedNext } := by
      rw [← issue_setTag t (lineRead j v.nextIssue) .free, ← issued]
      rfl
    rw [again, ← shape]
    refine offerTags_of_running (v := w.processedNext.issuedNext) ⟨none.entries, none.slots, none.misses⟩ line.going line.jobs
      running rfl line.parked (.inr (.inl ?_))
    simp [Validation.processedNext, Validation.issuedNext, unprocessed, two]
  case left =>
    obtain ⟨issued, -⟩ := checkEntries_kept checked
    have rest := closeJob_readBehind_rest (t := t) (w := w) line
    refine ⟨_, exec_ok_leaves_read_behind line none cls cls' other unfailed two left checked more held free load loading failed,
      ?_, ?_, ?_, ?_⟩
    · rw [post_out, freed_out, ← issued]
      exact closeJob_readBehind_mem
    · rw [post_tag, freed_tag, ← issued]
      exact (closeJob_readBehind 2).trans (if_pos rfl)
    · rw [post_tag, freed_tag]
      refine (closeJob_readBehind 3).trans ((if_neg (by decide)).trans ?_)
      rw [free_of_both cls cls' other free w 3 rfl]
      rfl
    · rw [post_tags_out_comm, freed_tags_out_comm, rest]

end Sys2Proof.Machine
end

section
/-! SUPPORT and CLAIM. Sweeps over the owners in age order (R22, R61); an owner that fails while it is translated (R56, R58);
the end of a walk (R67), and a failed walk read (R70). -/

namespace Sys2Proof.Machine

open Sys2Proof.Claims

@[simp] theorem lost_unqueued (e : PostEntry) (f : Failure) (s : State) : (lost e f s).unqueued = s.unqueued := by
  simp only [lost, post_unqueued, addFault_unqueued, updReq_unqueued, left]
  exact lowerInFlight_unqueued _ _

/-! ### Owners in age order -/

theorem insertByAge_perm {α : Type} (age : α → Nat) (x : α) (xs : List α) : (insertByAge age x xs).Perm (x :: xs) := by
  induction xs with
  | nil => exact .refl _
  | cons y ys ih =>
    rw [insertByAge]
    split
    · exact .refl _
    · exact (ih.cons y).trans (.swap x y ys)

theorem sortByAge_perm {α : Type} (age : α → Nat) (xs : List α) : (sortByAge age xs).Perm xs := by
  have steps (l acc : List α) : (l.foldl (fun acc x => insertByAge age x acc) acc).Perm (acc ++ l) := by
    induction l generalizing acc with
    | nil => simp
    | cons x l ih => exact (ih _).trans (((insertByAge_perm age x acc).append_right l).trans List.perm_middle.symm)
  exact steps xs []

theorem owners_perm (s : State) : (owners s).Perm (s.postQueue.map PostEntry.ref ++ (occupied s).map OwnerRef.slot) :=
  sortByAge_perm _ _

theorem owners_of_none {s : State} (entries : s.postQueue = []) (empty : ∀ n : SlotId, s.slot n = none) : owners s = [] := by
  rw [owners, entries, occupied_of_empty empty]
  rfl

theorem owners_of_single {p : PostEntry} {s : State} (entries : s.postQueue = [p]) (empty : ∀ n : SlotId, s.slot n = none) :
    owners s = [p.ref] := by
  rw [owners, entries, occupied_of_empty empty]
  rfl

/-! ### Sweeps -/

theorem sweep_of_no_owners {act : OwnerRef → State → State} {s : State} (entries : s.postQueue = [])
    (empty : ∀ n : SlotId, s.slot n = none) : sweep act s = s := by
  rw [sweep, owners_of_none entries empty]
  rfl

theorem sweep_of_single {act : OwnerRef → State → State} {p : PostEntry} {s : State} (entries : s.postQueue = [p])
    (empty : ∀ n : SlotId, s.slot n = none) : sweep act s = leaveTurn p.ref (act p.ref s) := by
  rw [sweep, owners_of_single entries empty]
  rfl

theorem leaveTurn_of_head {p : PostEntry} {s : State} (entries : s.postQueue = [p]) :
    leaveTurn p.ref s = leaveHead p.core.requester s := by
  simp [leaveTurn, PostEntry.ref, head_of_single entries]

theorem leaveHead_of_working {p : PostEntry} {s : State} (entries : s.postQueue = [p]) (working : p.state ≠ .ready) :
    leaveHead p.core.requester s = if p.mayLeave then leave p s else s := by
  have still : makeEligible p.core.requester s = s := by
    rw [makeEligible_of_single entries, if_neg working, setPostQueue_self entries]
  rw [leaveHead, still, head_of_single entries]

/-! ### Offering again -/

theorem reofferWith_of_no_owners {waiters restart : List OwnerRef} {s : State} (unqueued : s.unqueued = [])
    (entries : s.postQueue = []) (empty : ∀ n : SlotId, s.slot n = none) : reofferWith waiters restart s = s := by
  have same : { s with unqueued := [] } = s := by rw [← unqueued]
  rw [reofferWith, same]
  exact sweep_of_no_owners entries empty

/-! ### An owner fails at translation -/

theorem detach_of_nil {o : OwnerRef} {s : State} (misses : s.missQueue = []) (unqueued : s.unqueued = []) :
    detach o s = s := by
  rw [detach, misses, unqueued]
  change { s with missQueue := [], unqueued := [] } = s
  rw [← misses, ← unqueued]

theorem cancelOps_of_noOps {o : OwnerRef} {s : State} (h : NoOps o s) : cancelOps (pieceOf o) false s = s := by
  have not_picked {op : Op} {n : OpName} (owner : op.owner = some n) (other : ∀ j, op.owner ≠ some (.piece o j)) :
      pieceOf o n = false := by
    refine Bool.eq_false_iff.mpr fun picked => ?_
    obtain ⟨j, rfl⟩ := (pieceOf_iff o n).mp picked
    exact other j owner
  have tags : s.tags.map (TagState.cancel (pieceOf o) false) = s.tags := by
    refine Vector.ext fun i lt => ?_
    rw [Vector.getElem_map]
    exact TagState.cancel_of_not_picked (fun op n out owner => not_picked owner (h.1 ⟨i, lt⟩ op · out)) false
  have parked : s.parked.filter (fun z => !(z.op.owner.elim false (pieceOf o))) = s.parked := by
    refine List.filter_eq_self.mpr fun z mem => ?_
    cases owner : z.op.owner with
    | none => rfl
    | some n => simp [not_picked owner (h.2 z mem)]
  rw [cancelOps, tags, parked]

/-- The entry that fails while it is translated: FAILED, its translation set aside, its pieces ENDED. -/
def stoppedEntry (p : PostEntry) (f : Failure) : PostEntry :=
  { p with state := .failed, core := { p.core with
      progress := none, failure := some f, pieces := p.core.pieces.map fun q => { q with state := .ended } } }

theorem map_atFailure_of_pending {ps : List Piece} (h : ∀ q ∈ ps, q.state = .pending) (flies : Piece → Bool) :
    ps.map (fun q => q.atFailure (flies q)) = ps.map fun q => { q with state := .ended } :=
  List.map_congr_left fun q mem => by simp [Piece.atFailure, h q mem]

/-! ### The last entry of the post queue -/

section
variable {before : List PostEntry} {p : PostEntry} {s : State} (entries : s.postQueue = before ++ [p])
  (others : ∀ e ∈ before, e.named p.core.requester p.sequence = false)
include entries others

theorem updEntry_of_last (f : PostEntry → PostEntry) :
    updEntry p.core.requester p.sequence f s = setPostQueue (before ++ [f p]) s := by
  have stand : (before.map fun e => if e.named p.core.requester p.sequence then f e else e) = before :=
    (List.map_congr_left fun e mem => if_neg (by simp [others e mem])).trans (List.map_id _)
  rw [updEntry, entries, List.map_append, stand]
  simp [PostEntry.named]

theorem updCore_of_last (f : OwnerCore → OwnerCore) :
    updCore p.ref f s = setPostQueue (before ++ [{ p with core := f p.core }]) s := updEntry_of_last entries others _

theorem ownerCore_of_last : ownerCore p.ref s = some p.core := by
  have absent : before.find? (·.named p.core.requester p.sequence) = none :=
    List.find?_eq_none.mpr fun e mem => by simp [others e mem]
  have here : p.named p.core.requester p.sequence = true := by simp [PostEntry.named]
  simp only [ownerCore, PostEntry.ref, findEntry, entries]
  rw [List.find?_append, absent, Option.none_or, List.find?_singleton, if_pos here, Option.map_some]

theorem failOwner_of_last {g : Progress} {y : Place} (translating : Translating p g y) (no_ops : NoOps p.ref s)
    (f : Failure) : failOwner p.ref f s = setPostQueue (before ++ [stoppedEntry p f]) s := by
  let d : PostEntry := { p with core := { p.core with
    progress := none, failure := some f
    pieces := p.core.pieces.map fun q => q.atFailure (isOutstanding (.piece p.ref q.index) s) } }
  have core : failCore p.ref f s = setPostQueue (before ++ [d]) s := by
    rw [failCore, updCore_of_last entries others]
    exact cancelOps_of_noOps (s := setPostQueue (before ++ [d]) s) no_ops
  have unfolded : failOwner p.ref f s = updEntry p.core.requester p.sequence (fun e => { e with state := .failed })
      (failCore p.ref f s) := rfl
  rw [unfolded, core]
  refine (updEntry_of_last (p := d) (s := setPostQueue (before ++ [d]) s) rfl others _).trans ?_
  exact congrArg (fun ps => setPostQueue (before ++ [{ d with state := .failed, core := { d.core with pieces := ps } }]) s)
    (map_atFailure_of_pending translating.pieces _)

end

theorem failOwner_of_translating {p : PostEntry} {g : Progress} {y : Place} {s : State} (entries : s.postQueue = [p])
    (translating : Translating p g y) (no_ops : NoOps p.ref s) (f : Failure) :
    failOwner p.ref f s = setPostQueue [stoppedEntry p f] s :=
  failOwner_of_last (before := []) entries (by simp) translating no_ops f

theorem stoppedEntry_mayLeave (p : PostEntry) (f : Failure) : (stoppedEntry p f).mayLeave = true :=
  mayLeave_of_failed rfl fun q mem => by
    obtain ⟨z, -, rfl⟩ := List.mem_map.mp mem
    exact PieceState.noConfusion

/-- The only entry, with slots whose fences are met, fails at its translation and leaves lost. -/
theorem failTranslation_loses_among_slots {p : PostEntry} {g : Progress} {y : Place} {s : State} (entries : s.postQueue = [p])
    (translating : Translating p g y) (no_ops : NoOps p.ref s) (detached : detach p.ref s = s) (met : FencesMet s)
    (f : Failure) (still : drainTestOf p.core.place (lost p f s) = lost p f s) :
    leaveTurn p.ref (failTranslation p.ref f s) = lost p f s := by
  have stopped : failTranslation p.ref f s = setPostQueue [stoppedEntry p f] s := by
    rw [failTranslation, detached, failOwner_of_translating entries translating no_ops]
  have undrained : drainTestOf p.core.place (setPostQueue [] (lost p f s)) = setPostQueue [] (lost p f s) := by
    rw [setPostQueue_nil_lost, still]
  have gone := leave_loses (e := stoppedEntry p f) (f := f) (s := setPostQueue [stoppedEntry p f] s) translating.mark met
    rfl rfl (by rw [without_of_single rfl]; exact undrained)
  rw [without_of_single rfl] at gone
  rw [stopped]
  refine (leaveTurn_of_head (p := stoppedEntry p f) rfl).trans ?_
  refine (leaveHead_of_working (p := stoppedEntry p f) rfl EntryState.noConfusion).trans ?_
  rw [if_pos (stoppedEntry_mayLeave p f), gone]
  exact setPostQueue_nil_lost p f s

/-- The only entry, with no slot open, fails at its translation and leaves lost. -/
theorem failTranslation_loses {p : PostEntry} {g : Progress} {y : Place} {s : State} (entries : s.postQueue = [p])
    (translating : Translating p g y) (no_ops : NoOps p.ref s) (misses : s.missQueue = []) (unqueued : s.unqueued = [])
    (quiet : QuietPlace p.core.place s) (empty : ∀ n : SlotId, s.slot n = none) (f : Failure) :
    leaveTurn p.ref (failTranslation p.ref f s) = lost p f s :=
  failTranslation_loses_among_slots entries translating no_ops (detach_of_nil misses unqueued) (fencesMet_of_empty empty) f
    (drainTestOf_of_quiet fun x at_x => (lost_ap_state p f x.aperture s).trans (quiet x at_x))

/-! ### The end of a walk -/

/-- The state in which a walk's read has ended and its request has left. -/
def walkOver (t : TagId) (u : TagState) (rest : List WalkRequest) (s : State) : State :=
  setTag t u { unmoved s with missQueue := rest }

/-- A walk at the front of the miss queue with its read in flight, whatever jobs there are. -/
structure WalkIn (e : EngineId) (op : Op) (w : WalkRequest) (x : Walk) (rest : List WalkRequest) (s : State) : Prop where
  up : s.resetLow = false
  misses : s.missQueue = w :: rest
  walk : w.walk = some x
  engine : x.engine = e
  others : ∀ y ∈ rest, ∀ z, y.walk = some z → z.engine ≠ e
  mark : w.settlingMark = false
  tag : s.tag (engineTag e) = .outstanding op
  owner : op.owner = some (.walk e)
  live : op.cancelled = false

theorem walkIn_of_walking {e : EngineId} {op : Op} {w : WalkRequest} {x : Walk} {rest : List WalkRequest} {s : State}
    {js : List Job} {v : Option Validation} (h : Walking e op w x rest { s with jobs := js, validation := v }) :
    WalkIn e op w x rest s :=
  ⟨h.up, h.misses, h.walk, h.engine, h.others, h.mark, h.tag, h.owner, h.live⟩

section
variable {e : EngineId} {op : Op} {w : WalkRequest} {x : Walk} {rest : List WalkRequest} {s : State}
  (walking : WalkIn e op w x rest s)
include walking

theorem walking_onEngine : w.onEngine e = true := by
  simp [WalkRequest.onEngine, walking.walk, walking.engine]

theorem walking_found : s.missQueue.find? (·.onEngine e) = some w := by
  rw [walking.misses, List.find?_cons_of_pos (walking_onEngine walking)]

theorem walking_not_onEngine (y : WalkRequest) (mem : y ∈ rest) : y.onEngine e = false := by
  rw [WalkRequest.onEngine]
  split
  next z running => simpa using walking.others y mem z running
  next => rfl

theorem walking_left : s.missQueue.filter (fun w => !(w.onEngine e)) = rest := by
  rw [walking.misses, List.filter_cons_of_neg (by simp [walking_onEngine walking])]
  exact List.filter_eq_self.mpr fun y mem => by simp [walking_not_onEngine walking y mem]

theorem endWalk_of_walking (r : WalkOutcome) (t : TagId) (u : TagState) : endWalk e r (setTag t u (unmoved s)) =
    reofferWith (w.waiters.map (·.1)) [] (walkOutcome w r (drainTest w.aperture (walkOver t u rest s))) := by
  have found : (setTag t u (unmoved s)).missQueue.find? (·.onEngine e) = some w := walking_found (s := s) walking
  have left : (setTag t u (unmoved s)).missQueue.filter (fun w => !(w.onEngine e)) = rest := walking_left (s := s) walking
  rw [endWalk, found]
  simp only [left, walking.mark, if_neg Bool.false_ne_true]
  rfl

end

theorem currentWalk_iff (w : WalkRequest) (s : State) : currentWalk w s = true ↔
    w.dropped = false ∧ (s.ap w.aperture).generation = w.generation ∧ (s.ap w.aperture).state.translates = true := by
  simp [currentWalk, and_assoc]

theorem currentWalk_walkOver {w : WalkRequest} {s : State} (kept : w.dropped = false)
    (current : w.generation = (s.ap w.aperture).generation) (translates : (s.ap w.aperture).state.translates = true) (t : TagId)
    (u : TagState) (rest : List WalkRequest) : currentWalk w (walkOver t u rest s) = true :=
  (currentWalk_iff _ _).mpr ⟨kept, current.symm, translates⟩

/-- The failure of a waiter with no generation of its own yet is that of its progress. -/
theorem failureOf_of_translating {p : PostEntry} {g : Progress} {y : Place} (h : Translating p g y) (c : Cause) :
    p.core.failureOf c = failureOn c g y := by
  simp [OwnerCore.failureOf, OwnerCore.reportGeneration, h.generation, h.progress, h.place, failureOn]

/-- Settles O31. -/
theorem aFailedWalkReadLosesItsWaiter : Obligations.AFailedWalkReadLosesItsWaiter := by
  intro e op w x p i g y cmd c u s current waiters entries translating place no_ops empty active own fails
  have walking := current.toWalking
  obtain ⟨ended, m, r, cause, runs⟩ := exec_of_fails walking.up walking.tag walking.live fails
  let gone : State := walkOver own u [] s
  have quiet : QuietPlace p.core.place gone := fun z here => by
    rw [translating.place] at here
    rw [← Option.some.inj here, place]
    exact active
  have no_ops' : NoOps p.ref gone := by
    refine ⟨fun v op' j out => ?_, no_ops.2⟩
    have here : (if v = own then u else s.tag v) = .outstanding op' := (setTag_tag _ _ _ _).symm.trans out
    by_cases same : v = own
    · exact absurd ((if_pos same).symm.trans here) (ended op')
    · exact no_ops.1 v op' j ((if_neg same).symm.trans here)
  have failed : walkOutcome w (.readFailed m own) gone = lost p { failureOn c g y with tag := some own } gone := by
    have turn := failTranslation_loses (s := gone) entries translating no_ops' rfl walking.unqueued quiet empty
      (readFailure m own p.core)
    rw [readFailure, failureOf_of_translating translating, cause] at turn
    rw [walkOutcome, if_pos (currentWalk_walkOver current.kept current.current (by rw [active]; rfl) own u [])]
    simp only [failWaiters, waiters, List.map_cons, List.map_nil]
    rw [sweep_of_single (s := gone) entries empty]
    simp only [ownerCore_of_single (s := gone) entries]
    simpa [readFailure, failureOf_of_translating translating, cause] using turn
  have gone_ends : endWalk e (.readFailed m own) (setTag own u (unmoved s)) =
      lost p { failureOn c g y with tag := some own } gone := by
    have not_draining : (gone.ap w.aperture).state ≠ .draining := by
      rw [show (gone.ap w.aperture).state = .active from active]
      exact ApState.noConfusion
    rw [endWalk_of_walking (walkIn_of_walking (js := s.jobs) walking), drainTest_of_not_draining not_draining, failed]
    exact reofferWith_of_no_owners ((lost_unqueued _ _ _).trans walking.unqueued) (lost_postQueue _ _ _)
      fun n => (slot_congr (lost_slots _ _ _) n).trans (empty n)
  refine runs.trans (next_congr ?_)
  rw [opFailed, show ({ op with retries := r } : Op).owner = some (.walk e) from walking.owner]
  refine (congrArg offerTags gone_ends).trans ?_
  exact offerTags_lost empty rfl walking.jobs walking.going

end Sys2Proof.Machine
end

section
/-! SUPPORT and CLAIM. The one QUEUED request is taken by an engine (R63); an unqueued piece is offered again (R57, R61). -/

namespace Sys2Proof.Machine

open Sys2Proof.Claims

/-! ### The one QUEUED request -/

/-- A request as an engine takes it: its walk starts at the point of R64. -/
def takenBy (e : EngineId) (w : WalkRequest) (s : State) : WalkRequest :=
  let a := s.ap w.aperture
  let point := startPoint a (s.places w.aperture) w.target
  { w with walk := some (walkFrom e a point.1 point.2) }

/-- The state in which an engine has taken the last request of the miss queue. -/
def startedOn (e : EngineId) (before : List WalkRequest) (w : WalkRequest) (s : State) : State :=
  let a := s.ap w.aperture
  issue (engineTag e) (walkRead e w a.listAddress a.entryCount (startPoint a (s.places w.aperture) w.target).1)
    { s with missQueue := before ++ [takenBy e w s] }

section
variable (e : EngineId) (before : List WalkRequest) (w : WalkRequest) (s : State)

theorem startedOn_missQueue : (startedOn e before w s).missQueue = before ++ [takenBy e w s] := rfl
theorem startedOn_postQueue : (startedOn e before w s).postQueue = s.postQueue := rfl
theorem startedOn_slots : (startedOn e before w s).slots = s.slots := rfl
theorem startedOn_jobs : (startedOn e before w s).jobs = s.jobs := rfl
theorem startedOn_quiescing : (startedOn e before w s).quiescing = s.quiescing := rfl

theorem startedOn_rest (v : Vector TagState 16) (o : Outputs) (m : List WalkRequest) (q : List PostEntry) :
    { startedOn e before w s with tags := v, out := o, missQueue := m, postQueue := q } =
      { s with tags := v, out := o, missQueue := m, postQueue := q } := rfl

end

section
variable {before : List WalkRequest} {w : WalkRequest} {s : State} (misses : s.missQueue = before ++ [w])
  (queued : w.walk = none) (walking : ∀ y ∈ before, y.walk.isSome = true)
include misses queued walking

theorem startWalk_of_last {e : EngineId} (available : engineAvailable e s = true) :
    startWalk e s = startedOn e before w s := startWalk_of_available available misses queued walking rfl

/-- Engine 0 takes it when it can, else engine 1 when that can; else it stays QUEUED. -/
theorem startWalks_of_last :
    (∃ e, engineAvailable e s = true ∧ (engineAvailable 0 s = true → e = 0) ∧ startWalks s = startedOn e before w s) ∨
      (∀ e, engineAvailable e s = false) ∧ startWalks s = s := by
  by_cases zero : engineAvailable 0 s = true
  · have none_left : NoneQueued (startedOn 0 before w s) := fun y mem =>
      (List.mem_append.mp mem).elim (walking y) fun last => List.mem_singleton.mp last ▸ rfl
    refine .inl ⟨0, zero, fun _ => rfl, ?_⟩
    rw [startWalks, startWalk_of_last misses queued walking zero, startWalk_of_noneQueued none_left]
  · have zero := Bool.eq_false_iff.mpr zero
    rw [startWalks, startWalk_of_unavailable zero]
    by_cases one : engineAvailable 1 s = true
    · exact .inl ⟨1, one, fun h => absurd h (by simp [zero]), startWalk_of_last misses queued walking one⟩
    · have one := Bool.eq_false_iff.mpr one
      refine .inr ⟨fun e => ?_, startWalk_of_unavailable one⟩
      rcases Fin.exists_fin_two.mp ⟨e, rfl⟩ with rfl | rfl
      · exact zero
      · exact one

end

/-! ### A lookup that no entry answers -/

theorem lookup_eq_none {k : ApId} {g : Gen} {off : Nat} {s : State} (h : ∀ i, ¬(s.cached i).hits k g off = true) :
    lookup k g off s = none := by
  have nil : ((List.finRange 32).filter fun i => (s.cached i).hits k g off) = [] := List.filter_eq_nil_iff.mpr fun i _ => h i
  rw [lookup, nil]
  rfl

/-- The entry, its next piece attached to a walk request. -/
def attachedEntry (p : PostEntry) (g : Progress) : PostEntry :=
  { p with core := { p.core with progress := some { g with waiting := .attached } } }

/-- The walk request that a missed piece makes (R57). -/
def requestOf (o : OwnerRef) (g : Progress) (k : ApId) : WalkRequest where
  aperture := k
  generation := g.generation
  target := g.nextOffset
  waiters := [(o, g.nextPiece)]

theorem lookUp_of_miss {p : PostEntry} {g : Progress} {y : Place} {s : State} (entries : s.postQueue = [p])
    (progress : p.core.progress = some g) (place : p.core.place = some y)
    (miss : ∀ i, ¬(s.cached i).hits y.aperture (s.ap y.aperture).generation g.nextOffset = true)
    (unserved : ∀ w ∈ s.missQueue, w.serves y.aperture g.generation g.nextOffset = false) (room : s.missQueue.length < 8) :
    lookUp p.ref s = { s with
      missQueue := s.missQueue ++ [requestOf p.ref g y.aperture], postQueue := [attachedEntry p g] } := by
  have joins : s.missQueue.any (·.serves y.aperture g.generation g.nextOffset) = false :=
    List.any_eq_false.mpr fun w mem => by simp [unserved w mem]
  rw [lookUp, lookupPieces, ownerCore_of_single entries]
  simp only [place, progress, lookup_eq_none miss, offer, joins, if_neg Bool.false_ne_true, if_pos room, setWaiting]
  refine (updCore_of_single (s := { s with missQueue := s.missQueue ++ [requestOf p.ref g y.aperture] }) entries _).trans ?_
  simp only [progress, Option.map_some]
  rfl

/-! ### The end of an event in which a walk may start -/

theorem offerTags_eq_startWalks {s : State} (none : grantOnce (startWalks s) = none) (jobs : NoLineDue (startWalks s))
    (going : (startWalks s).quiescing = false) : offerTags s = startWalks s := by
  rw [offerTags, grants_of_none 12 none, runValidation_of_noLineDue jobs, softResetTest_of_not_due (resetDue_of_going going)]

theorem grantOnce_of_translating {p : PostEntry} {s : State} (entries : s.postQueue = [p]) (state : p.state = .translating)
    (empty : ∀ n : SlotId, s.slot n = none) : grantOnce s = none :=
  grantOnce_of_none_waiting (waitingWrite_of_none_waits entries (by simp [state])) (waitingRead_of_empty empty)

theorem leaveTurn_of_translating {p : PostEntry} {s : State} (entries : s.postQueue = [p]) (state : p.state = .translating) :
    leaveTurn p.ref s = s := by
  have stays : p.mayLeave = false := mayLeave_eq_false (by simp [state]) (by simp [state])
  rw [leaveTurn_of_head entries, leaveHead_of_working entries (by simp [state]), stays]
  rfl

theorem sweep_of_idle {act : OwnerRef → State → State} {s : State} (entries : s.postQueue = [])
    (idle : ∀ n t, act (.slot n) t = t) : sweep act s = s := by
  refine List.foldlRecOn (motive := (· = s)) _ _ rfl fun t same o mem => ?_
  obtain ⟨n, -, rfl⟩ : ∃ n ∈ occupied s, OwnerRef.slot n = o := by
    simpa [entries] using (owners_perm s).mem_iff.mp mem
  rw [idle]
  exact same

/-- The state in which the piece waits on its new walk request. -/
def offered (p : PostEntry) (g : Progress) (y : Place) (s : State) : State :=
  { unmoved s with
    unqueued := [], missQueue := [requestOf p.ref g y.aperture], postQueue := [attachedEntry p g] }

/-- Settles O32. -/
theorem unqueuedPiecesAreOfferedAgain : Obligations.UnqueuedPiecesAreOfferedAgain := by
  refine ⟨fun u p g y s going unqueued owner entries state progress place empty misses jobs parked miss => ?offered,
    fun s quiet unqueued entries => ?idle⟩
  case offered =>
    have looked : lookUp p.ref { unmoved s with unqueued := [] } = offered p g y s := by
      refine (lookUp_of_miss (s := { unmoved s with unqueued := [] }) entries progress place miss ?_ ?_).trans ?_
      · intro w mem
        rw [show ({ unmoved s with unqueued := [] } : State).missQueue = [] from misses] at mem
        exact absurd mem List.not_mem_nil
      · rw [show ({ unmoved s with unqueued := [] } : State).missQueue = [] from misses]
        exact Nat.zero_lt_succ 7
      · rw [offered, show ({ unmoved s with unqueued := [] } : State).missQueue = [] from misses]
        rfl
    have swept : reoffer (unmoved s) = offered p g y s := by
      have again : (unmoved s).unqueued.map (·.owner) ++ [] = [p.ref] := by
        rw [show (unmoved s).unqueued = [u] from unqueued, ← owner]
        rfl
      rw [reoffer, reofferWith]
      simp only [again]
      rw [sweep_of_single (s := { unmoved s with unqueued := [] }) entries empty]
      simp only [List.contains_nil, List.contains_cons, BEq.rfl, Bool.true_or, if_neg Bool.false_ne_true, if_true, looked]
      exact leaveTurn_of_translating (p := attachedEntry p g) rfl state
    have walks := startWalks_of_last (before := []) (w := requestOf p.ref g y.aperture) (s := offered p g y s) rfl rfl
      fun y mem => absurd mem List.not_mem_nil
    have same (e : EngineId) : engineAvailable e (offered p g y s) = engineAvailable e s := by
      refine engineAvailable_of_not_on ?_ rfl
      rw [misses]
      rfl
    have ends {t : State} (walked : startWalks (offered p g y s) = t) (queue : t.postQueue = [attachedEntry p g])
        (slots : ∀ n : SlotId, t.slot n = none) (idle : t.jobs = []) (going : t.quiescing = false) :
        exec .unqueuedReoffer s = .next t := by
      refine next_congr (?_ : offerTags (reoffer (unmoved s)) = _)
      rw [swept, ← walked]
      rw [← walked] at queue slots idle going
      exact offerTags_eq_startWalks (grantOnce_of_translating queue state slots) (.inl idle) going
    rcases walks with ⟨e, available, first, walked⟩ | ⟨none, walked⟩
    · refine ⟨startedOn e [] (requestOf p.ref g y.aperture) (offered p g y s), _, _,
        ends walked rfl empty jobs going, rfl, rfl, rfl, rfl, rfl, rfl, rfl,
        fun zero => ⟨rfl, first ((same 0).trans zero)⟩, fun none => ?_, rfl, rfl, rfl, rfl,
        ⟨rfl, rfl, rfl, rfl, rfl, rfl, rfl, rfl⟩, rfl, fun v other => ?_⟩
      · rw [same e, none e] at available
        exact absurd available Bool.false_ne_true
      · refine (issue_tag _ _ _ _).trans (if_neg fun h => other ?_)
        rw [h]
        exact engineTag_class e
    · refine ⟨offered p g y s, _, walkFrom 0 (s.ap 0) 0 0,
        ends walked rfl empty jobs going, rfl, rfl, rfl, rfl, rfl, rfl, rfl,
        fun zero => ?_, fun _ => rfl, rfl, rfl, rfl, rfl, ⟨rfl, rfl, rfl, rfl, rfl, rfl, rfl, rfl⟩, rfl, fun v other => rfl⟩
      rw [← same 0, none 0] at zero
      exact absurd zero Bool.false_ne_true
  case idle =>
    refine next_congr (?_ : offerTags (reoffer (unmoved s)) = unmoved s)
    have same : reoffer (unmoved s) = unmoved s := by
      have cleared : ({ unmoved s with unqueued := [] } : State) = unmoved s := by rw [← unqueued]; rfl
      have none : (unmoved s).unqueued.map (·.owner) ++ [] = [] := by
        rw [show (unmoved s).unqueued = [] from unqueued]
        rfl
      rw [reoffer, reofferWith, cleared]
      simp only [none]
      exact sweep_of_idle entries fun n t => by simp
    rw [same]
    exact offerTags_of_nothingWaits (nothingWaits_congr (s := s) ⟨rfl, rfl, rfl, rfl, rfl, rfl, rfl⟩ quiet)

end Sys2Proof.Machine
end

section
/-! SUPPORT and CLAIM. The switch of a REBIND (R16), what it marks and counts (R17), and a rebind that fails (R15). -/

namespace Sys2Proof.Machine

open Sys2Proof.Claims

/-! ### Sweeps that do nothing -/

theorem sweep_of_no_turns {act : OwnerRef → State → State} {s : State}
    (still : ∀ o ∈ owners s, leaveTurn o (act o s) = s) : sweep act s = s :=
  List.foldlRecOn (motive := (· = s)) _ _ rfl fun _ same o mem => by rw [same]; exact still o mem

/-! ### The steps of the switch -/

/-- What a job that passes hands over (R37). -/
def handedOver (w : Validation) : Validated := { mapped := w.offset, stride := w.stride, places := w.build }

/-- The state in which the new list stands at the next generation and the old cache entries are invalid (R16, steps 1 to
4). -/
def installed (j : Job) (w : Validation) (s : State) : State :=
  invalidateAp j.aperture (setPlaces j.aperture w.build (updAp j.aperture
    (fun a => { a.installList j.list (handedOver w) with generation := (s.ap j.aperture).generation + 1 }) s))

/-- The state with the owners' records and the miss queue as given. -/
def withOwners (q : List PostEntry) (sl : Vector (Option Slot) 8) (m : List WalkRequest) (s : State) : State :=
  { s with postQueue := q, slots := sl, missQueue := m }

theorem settle_installed (j : Job) (w : Validation) (n : Nat) (q : List PostEntry) (sl : Vector (Option Slot) 8)
    (m : List WalkRequest) (s : State) : updAp j.aperture (·.settle n) (withOwners q sl m (installed j w s)) =
      switched j w n (withOwners q sl m s) := by
  have record : (withOwners q sl m (installed j w s)).ap j.aperture = { (s.ap j.aperture).installList j.list (handedOver w) with
      generation := (s.ap j.aperture).generation + 1 } := (ap_congr rfl _).trans (setAp_ap_self _ _ s)
  have same : (withOwners q sl m s).ap j.aperture = s.ap j.aperture := ap_congr rfl _
  rw [updAp, record, installed, invalidateAp_eq, switched, same]
  simp [withOwners, setAp, updAp, setPlaces, Aperture.settle, Aperture.installList, handedOver]

theorem switch_eq (j : Job) (w : Validation) (s : State) : switch j.aperture j.list (handedOver w) s =
    let old := (s.ap j.aperture).generation
    let os := untranslatedOwners j.aperture s
    let t := detachAll os (installed j w s)
    let u := reofferWith [] os { t with missQueue := t.missQueue.filter fun w => w.walk.isSome || !(w.aperture == j.aperture) }
    settleTest j.aperture (updAp j.aperture (·.settle (countOld j.aperture old u)) (markOld j.aperture old u)) := rfl

theorem reofferWith_of_no_turns {s : State} (unqueued : s.unqueued = []) (still : ∀ o ∈ owners s, leaveTurn o s = s) :
    reofferWith [] [] s = s := by
  have cleared : ({ s with unqueued := [] } : State) = s := by rw [← unqueued]
  have none : s.unqueued.map (·.owner) ++ [] = [] := by rw [unqueued]; rfl
  rw [reofferWith, cleared]
  simp only [none]
  exact sweep_of_no_turns fun o mem => by simpa using still o mem

/-- With every owner translated and no request queued, the switch marks and counts, and no owner begins again. -/
theorem switch_of_translated {j : Job} {w : Validation} {s : State} (translated : untranslatedOwners j.aperture s = [])
    (misses : s.missQueue = []) (unqueued : s.unqueued = [])
    (still : ∀ o ∈ owners (installed j w s), leaveTurn o (installed j w s) = installed j w s) :
    switch j.aperture j.list (handedOver w) s = settleTest j.aperture (switched j w
      (countOld j.aperture (s.ap j.aperture).generation s) (markOld j.aperture (s.ap j.aperture).generation s)) := by
  have queue : (installed j w s).missQueue = [] := misses
  have same : { installed j w s with
      missQueue := (installed j w s).missQueue.filter fun w => w.walk.isSome || !(w.aperture == j.aperture) } =
      installed j w s := by
    rw [queue, List.filter_nil, ← queue]
  rw [switch_eq, translated]
  simp only [detachAll, List.foldl_nil, same, reofferWith_of_no_turns (s := installed j w s) unqueued still]
  exact congrArg (settleTest j.aperture) (settle_installed j w _ _ _ _ s)

theorem switched_ap (j : Job) (w : Validation) (n : Nat) (s : State) : (switched j w n s).ap j.aperture =
    { s.ap j.aperture with
      state := .rebinding .settling, pendingList := none, settling := n, listAddress := j.list.address
      entryCount := j.list.count, listTag := j.list.tag, mappedLength := w.offset, stride := w.stride
      resume := none, generation := (s.ap j.aperture).generation + 1 } := setAp_ap_self _ _ _

theorem settled_switched_iff (j : Job) (w : Validation) (n : Nat) (s : State) :
    settled j.aperture (switched j w n s) = true ↔ n = 0 := by
  rw [settled_iff, switched_ap]
  simp

/-! ### Marking and counting -/

theorem slots_ext {s t : State} (h : ∀ n : SlotId, t.slot n = s.slot n) : t.slots = s.slots :=
  Vector.ext fun i lt => h ⟨i, lt⟩

theorem countOld_of_none {k : ApId} {g : Gen} {s : State} (none : NoTraffic s) : countOld k g s = 0 := by
  simp [countOld, none.entries, none.slots, none.misses]

/-- With no slot open, only post entries and walks are marked. -/
theorem markOld_of_empty {k : ApId} {g : Gen} {s : State} (empty : ∀ n : SlotId, s.slot n = none) : markOld k g s =
    withOwners (s.postQueue.map fun e => if e.counted k g then { e with core := { e.core with settlingMark := true } } else e)
      s.slots (s.missQueue.map fun w => if w.counted k g then { w with settlingMark := true } else w) s := by
  have slots : (markOld k g s).slots = s.slots := slots_ext fun n => by
    have none := empty n
    simp only [State.slot, markOld, Vector.getElem_map] at none ⊢
    rw [none]
    rfl
  rw [markOld] at slots ⊢
  simp only at slots
  rw [slots]
  rfl

theorem markOld_of_none {k : ApId} {g : Gen} {s : State} (none : NoTraffic s) : markOld k g s = s := by
  have same : withOwners s.postQueue s.slots s.missQueue s = s := rfl
  rw [none.entries, none.misses] at same
  rw [markOld_of_empty none.slots, none.entries, none.misses]
  exact same

theorem switch_of_noTraffic {j : Job} {w : Validation} {s : State} (none : NoTraffic s) (unqueued : s.unqueued = []) :
    switch j.aperture j.list (handedOver w) s = post
      { kind := .rebindDone, aperture := some j.aperture, generation := some ((s.ap j.aperture).generation + 1) }
      (updAp j.aperture (fun a => { a with state := .active }) (switched j w 0 s)) := by
  have translated : untranslatedOwners j.aperture s = [] := by
    rw [untranslatedOwners, owners_of_none none.entries none.slots]
    rfl
  have still (o : OwnerRef) (mem : o ∈ owners (installed j w s)) : leaveTurn o (installed j w s) = installed j w s := by
    rw [owners_of_none (s := installed j w s) none.entries none.slots] at mem
    exact absurd mem List.not_mem_nil
  rw [switch_of_translated translated none.misses unqueued still, countOld_of_none none, markOld_of_none none,
    settleTest_of_settled ((settled_switched_iff j w 0 s).mpr rfl), switched_ap]

/-! ### A write and a read in flight -/

/-- The owner with its settling mark (R17). -/
def OwnerCore.marked (c : OwnerCore) : OwnerCore := { c with settlingMark := true }

section
variable {k : ApId} {g : Gen} {e : PostEntry} {n : SlotId} {c : Slot} {s : State} (entries : s.postQueue = [e])
  (here : s.slot n = some c) (others : ∀ m, m ≠ n → s.slot m = none)
include entries here others

theorem mem_owners_of_two {o : OwnerRef} (mem : o ∈ owners s) : o = e.ref ∨ o = .slot n := by
  have mem := (owners_perm s).mem_iff.mp mem
  rw [entries, occupied_of_single here others] at mem
  simpa using mem

end

theorem counted_of_inFlight {k : ApId} {g : Gen} {e : PostEntry} (flight : InFlightUnder k g e.core) :
    e.counted k g = true := by
  simp [PostEntry.counted, OwnerCore.attributed, flight.place, flight.generation]

theorem slot_counted_of_inFlight {k : ApId} {g : Gen} {c : Slot} (flight : InFlightUnder k g c.core)
    (reads : ∃ p ∈ c.core.pieces, p.kind = .map ∨ p.kind = .rom) : c.counted k g = true := by
  obtain ⟨p, mem, kind⟩ := reads
  have left : c.core.readsLeft = true := by
    refine List.any_eq_true.mpr ⟨p, mem, ?_⟩
    rcases kind with kind | kind <;> simp [kind, ExtentKind.usesTarget, flight.pieces p mem]
  simp [Slot.counted, OwnerCore.attributed, flight.place, flight.generation, left]

section
variable {j : Job} {w : Validation} {e : PostEntry} {n : SlotId} {c : Slot} {s : State} (entries : s.postQueue = [e])
  (here : s.slot n = some c) (others : ∀ m, m ≠ n → s.slot m = none) (misses : s.missQueue = [])
  (flight : InFlightUnder j.aperture (s.ap j.aperture).generation e.core)
  (flight' : InFlightUnder j.aperture (s.ap j.aperture).generation c.core)
  (reads : ∃ p ∈ c.core.pieces, p.kind = .map ∨ p.kind = .rom)
include entries here others misses flight flight' reads

theorem countOld_of_flying : countOld j.aperture (s.ap j.aperture).generation s = 2 := by
  have slots : ((List.finRange 8).filter fun m =>
      (s.slot m).elim false (·.counted j.aperture (s.ap j.aperture).generation)) = [n] := by
    rw [← filter_finRange_eq n]
    refine List.filter_congr fun m _ => ?_
    by_cases same : m = n
    · rw [same, here, beq_self_eq_true]
      exact slot_counted_of_inFlight flight' reads
    · rw [others m same]
      simp [same]
  rw [countOld, slots, entries, misses]
  simp [counted_of_inFlight flight]

theorem markOld_of_flying : markOld j.aperture (s.ap j.aperture).generation s =
    setSlot n (some { c with core := c.core.marked }) { s with postQueue := [{ e with core := e.core.marked }] } := by
  have slots : (markOld j.aperture (s.ap j.aperture).generation s).slots =
      (setSlot n (some { c with core := c.core.marked }) s).slots := slots_ext fun m => by
    rw [setSlot_slot]
    by_cases same : m = n
    · have here' := here
      rw [if_pos same, same]
      simp only [State.slot, markOld, Vector.getElem_map] at here' ⊢
      rw [here']
      exact congrArg some (if_pos (slot_counted_of_inFlight flight' reads))
    · have empty := others m same
      rw [if_neg same, empty]
      simp only [State.slot, markOld, Vector.getElem_map] at empty ⊢
      rw [empty]
      rfl
  have queue : s.postQueue.map (fun e => if e.counted j.aperture (s.ap j.aperture).generation then
      { e with core := { e.core with settlingMark := true } } else e) = [{ e with core := e.core.marked }] := by
    rw [entries, List.map_singleton, if_pos (counted_of_inFlight flight)]
    rfl
  have requests : s.missQueue.map (fun w => if w.counted j.aperture (s.ap j.aperture).generation then
      { w with settlingMark := true } else w) = s.missQueue := by
    rw [misses]; rfl
  rw [markOld] at slots ⊢
  simp only at slots
  rw [queue, slots, requests]
  rfl

/-- A write and a read in flight under the old list are marked and counted (R17). -/
theorem switch_of_flying (unqueued : s.unqueued = []) (issued : e.state = .issued) :
    switch j.aperture j.list (handedOver w) s = switched j w 2
      (setSlot n (some { c with core := c.core.marked }) { s with postQueue := [{ e with core := e.core.marked }] }) := by
  have translated : untranslatedOwners j.aperture s = [] := by
    refine List.filter_eq_nil_iff.mpr fun o mem => ?_
    rcases mem_owners_of_two entries here others mem with rfl | rfl
    · simp [untranslated, ownerCore_of_single entries, flight.progress]
    · simp [untranslated, ownerCore_of_slot here, flight'.progress]
  have still (o : OwnerRef) (mem : o ∈ owners (installed j w s)) : leaveTurn o (installed j w s) = installed j w s := by
    rcases mem_owners_of_two (s := installed j w s) entries here others mem with rfl | rfl
    · have stays : e.mayLeave = false := mayLeave_eq_false (by simp [issued]) (by simp [issued])
      rw [leaveTurn_of_head (s := installed j w s) entries, leaveHead_of_working (s := installed j w s) entries
        (by simp [issued]), stays]
      rfl
    · rfl
  have open' (u : State) : settled j.aperture (switched j w 2 u) = false := by
    rw [Bool.eq_false_iff, ne_eq, settled_switched_iff]
    exact Nat.succ_ne_zero 1
  rw [switch_of_translated translated misses unqueued still, countOld_of_flying entries here others misses flight flight' reads,
    markOld_of_flying entries here others misses flight flight' reads, settleTest_of_not_settled (open' _)]

end

theorem offerTags_of_all_issued {e : PostEntry} {n : SlotId} {c : Slot} {s : State} (entries : s.postQueue = [e])
    (here : s.slot n = some c) (others : ∀ m, m ≠ n → s.slot m = none) (misses : s.missQueue = []) (jobs : s.jobs = [])
    (parked : s.parked = []) (going : s.quiescing = false) (sent : ∀ p ∈ e.core.pieces, p.state = .issued)
    (sent' : ∀ p ∈ c.core.pieces, p.state = .issued) : offerTags s = s :=
  offerTags_of_nothingWaits ⟨going, noneQueued_of_nil misses, .inl jobs,
    waitingWrite_of_none_waits entries fun _ p mem => by
      rw [pieceWaits_of_issued (sent p mem), waitingOp_of_parked_nil parked]
      rfl,
    waitingRead_of_none_waits here others fun _ p mem => by
      rw [pieceWaits_of_issued (sent' p mem), waitingOp_of_parked_nil parked]
      rfl⟩

/-! ### A write that begins again -/

/-- The progress of an owner that begins its translation again after the switch (R16 step 5, R54). -/
def restarted (p : PostEntry) (y : Place) (g : Gen) : Progress := startProgress y p.core.length (g + 1)

/-- The entry, its translation begun anew and attached to its new walk request. -/
def restartedEntry (p : PostEntry) (y : Place) (g : Gen) : PostEntry :=
  { p with core := { p.core with pieces := [], progress := some { restarted p y g with waiting := .attached } } }

/-- The old walk that goes on without waiters. -/
def waiterless (x : WalkRequest) : WalkRequest := { x with waiters := [] }

theorem installed_ap (j : Job) (w : Validation) (s : State) : (installed j w s).ap j.aperture =
    { (s.ap j.aperture).installList j.list (handedOver w) with generation := (s.ap j.aperture).generation + 1 } :=
  (ap_congr rfl _).trans (setAp_ap_self _ _ s)

/-- After the switch no cache entry answers for the aperture (R16 step 4). -/
theorem installed_misses (j : Job) (w : Validation) (s : State) (i : Fin 32) (g : Gen) (off : Nat) :
    ¬((installed j w s).cached i).hits j.aperture g off = true := by
  have entry : (installed j w s).cached i = if (s.cached i).aperture = j.aperture
      then { s.cached i with valid := false } else s.cached i := by
    rw [installed, invalidateAp_eq]
    simp only [State.cached, Vector.getElem_map]
    rfl
  rw [entry]
  split
  next same => simp [CacheEntry.hits]
  next other => simp [CacheEntry.hits, other]

section
variable {j : Job} {w : Validation} {p : PostEntry} {h : Progress} {y : Place} {i : Nat} {x : WalkRequest} {s : State}
  (entries : s.postQueue = [p]) (empty : ∀ n : SlotId, s.slot n = none) (misses : s.missQueue = [x])
  (unqueued : s.unqueued = []) (walking : x.walk.isSome = true) (aperture : x.aperture = j.aperture)
  (generation : x.generation = (s.ap j.aperture).generation) (waiters : x.waiters = [(p.ref, i)])
  (translating : Translating p h y) (place : y.aperture = j.aperture) (fits : y.offset + p.core.length ≤ w.offset)

include entries empty translating place in
theorem untranslatedOwners_of_translating : untranslatedOwners j.aperture s = [p.ref] := by
  rw [untranslatedOwners, owners_of_single entries empty]
  refine List.filter_cons_of_pos ?_
  simp [untranslated, ownerCore_of_single entries, OwnerCore.attributed, translating.place, translating.progress, place]

include misses unqueued walking waiters in
theorem detach_of_one_walk : detach p.ref s = { s with missQueue := [waiterless x] } := by
  rw [detach, misses, unqueued]
  simp [waiters, walking, waiterless]

include entries generation translating place fits in
theorem beginTranslation_after_switch : beginTranslation p.ref { installed j w s with missQueue := [waiterless x] } =
    withOwners [restartedEntry p y (s.ap j.aperture).generation] s.slots
      [waiterless x, requestOf p.ref (restarted p y (s.ap j.aperture).generation) j.aperture] (installed j w s) := by
  let g := (s.ap j.aperture).generation
  let u : State := { installed j w s with missQueue := [waiterless x] }
  let q : PostEntry := { p with core := { p.core with pieces := [], progress := some (restarted p y g) } }
  have record : u.ap y.aperture = { (s.ap j.aperture).installList j.list (handedOver w) with generation := g + 1 } := by
    rw [place]
    exact installed_ap j w s
  have reached : ¬(u.ap y.aperture).mappedLength < y.offset + p.core.length := by
    rw [record]
    exact Nat.not_lt.mpr fits
  have begun' : updCore p.ref (fun c => { c with
      pieces := [], progress := some (startProgress y c.length (u.ap y.aperture).generation) }) u = setPostQueue [q] u := by
    rw [updCore_of_single (s := u) entries, record]
    rfl
  have missed : lookUp p.ref (setPostQueue [q] u) = withOwners [restartedEntry p y g] s.slots
      [waiterless x, requestOf p.ref (restarted p y g) j.aperture] (installed j w s) := by
    refine (lookUp_of_miss (p := q) (g := restarted p y g) (s := setPostQueue [q] u) rfl rfl translating.place
      (fun m => ?_) (fun z mem => ?_) (show (1 : Nat) < 8 by decide)).trans ?_
    · rw [place]
      exact installed_misses j w s m _ _
    · rw [List.mem_singleton.mp mem]
      have older : (waiterless x).generation ≠ (restarted p y g).generation := by
        rw [show (waiterless x).generation = g from generation]
        exact left_ne_add.mpr (by decide)
      simp [WalkRequest.serves, older]
    · rw [place]
      rfl
  refine Eq.trans ?_ missed
  rw [beginTranslation, ownerCore_of_single (s := u) entries]
  simp only [translating.place]
  refine (if_neg reached).trans (congrArg (lookUp p.ref) begun')

include entries empty misses unqueued walking aperture generation waiters translating place fits

/-- A write still translating behind an old walk begins again; the walk stays, marked and counted (R16 step 5, R17). -/
theorem switch_of_translating : switch j.aperture j.list (handedOver w) s = switched j w 1
    (withOwners [restartedEntry p y (s.ap j.aperture).generation] s.slots
      [{ waiterless x with settlingMark := true },
        requestOf p.ref (restarted p y (s.ap j.aperture).generation) j.aperture] s) := by
  let g := (s.ap j.aperture).generation
  let q := restartedEntry p y g
  let x' := requestOf p.ref (restarted p y g) j.aperture
  let u : State := { installed j w s with missQueue := [waiterless x] }
  let again : State := withOwners [q] s.slots [waiterless x, x'] (installed j w s)
  have detached : detachAll [p.ref] (installed j w s) = u :=
    detach_of_one_walk (s := installed j w s) misses unqueued walking waiters
  have kept : u.missQueue.filter (fun w => w.walk.isSome || !(w.aperture == j.aperture)) = [waiterless x] :=
    List.filter_cons_of_pos (by simp [waiterless, walking])
  have reoffered : reofferWith [] [p.ref] u = again := by
    have cleared : ({ u with unqueued := [] } : State) = u := by rw [← unqueued]; rfl
    rw [reofferWith, cleared]
    rw [sweep_of_single (s := u) entries empty]
    simp only [List.contains_cons, BEq.rfl, Bool.true_or, if_true]
    rw [beginTranslation_after_switch entries generation translating place fits]
    exact leaveTurn_of_translating (p := q) (s := again) rfl translating.state
  have unmarked : q.counted j.aperture g = false := by
    simp [PostEntry.counted, q, restartedEntry, translating.generation]
  have old : (waiterless x).counted j.aperture g = true := by
    simp [WalkRequest.counted, waiterless, walking, aperture, generation, g]
  have new : x'.counted j.aperture g = false := by simp [WalkRequest.counted, x', requestOf]
  have no_slot (n : SlotId) : again.slot n = none := empty n
  have counted : countOld j.aperture g again = 1 := by
    have queue : again.postQueue = [q] := rfl
    have requests : again.missQueue = [waiterless x, x'] := rfl
    simp [countOld, queue, requests, no_slot, unmarked, old, new]
  have marks : markOld j.aperture g again = withOwners [q] s.slots [{ waiterless x with settlingMark := true }, x']
      (installed j w s) := by
    have queue : again.postQueue.map (fun e => if e.counted j.aperture g then
        { e with core := { e.core with settlingMark := true } } else e) = [q] :=
      congrArg (· :: []) (if_neg (by simp [unmarked]))
    have requests : again.missQueue.map (fun w => if w.counted j.aperture g then { w with settlingMark := true } else w) =
        [{ waiterless x with settlingMark := true }, x'] := by
      refine congrArg₂ (fun a b => [a, b]) (if_pos old) (if_neg (by simp [new]))
    rw [markOld_of_empty no_slot, queue, requests]
    rfl
  have open' (v : State) : settled j.aperture (switched j w 1 v) = false := by
    rw [Bool.eq_false_iff, ne_eq, settled_switched_iff]
    exact Nat.succ_ne_zero 0
  rw [switch_eq, untranslatedOwners_of_translating entries empty translating place]
  simp only [detached, kept]
  rw [reoffered, counted, marks, settle_installed]
  exact settleTest_of_not_settled (open' _)

end

theorem switched_rest (j : Job) (w : Validation) (n : Nat) (v : Vector TagState 16) (o : Outputs) (m : List WalkRequest)
    (q : List PostEntry) (s : State) : { switched j w n s with tags := v, out := o, missQueue := m, postQueue := q } =
      switched j w n { s with tags := v, out := o, missQueue := m, postQueue := q } := rfl

section
variable (j : Job) (w : Validation) (n : Nat) (s : State)

theorem switched_postQueue : (switched j w n s).postQueue = s.postQueue := rfl
theorem switched_missQueue : (switched j w n s).missQueue = s.missQueue := rfl
theorem switched_slots : (switched j w n s).slots = s.slots := rfl
theorem switched_jobs : (switched j w n s).jobs = s.jobs := rfl
theorem switched_quiescing : (switched j w n s).quiescing = s.quiescing := rfl

end

/-- The end of the switch's event with a write that begins again: an engine takes its request if one can. -/
theorem offerTags_of_restarted {j : Job} {w : Validation} {q : PostEntry} {x x' : WalkRequest} {s : State}
    (entries : s.postQueue = [q]) (state : q.state = .translating) (empty : ∀ n : SlotId, s.slot n = none)
    (misses : s.missQueue = [x, x']) (walking : x.walk.isSome = true) (queued : x'.walk = none) (jobs : s.jobs = [])
    (going : s.quiescing = false) (own : x'.aperture = j.aperture) : ∃ x'',
      (offerTags (switched j w 1 s)).missQueue = [x, x''] ∧ x''.aperture = x'.aperture ∧ x''.generation = x'.generation ∧
      x''.target = x'.target ∧ x''.waiters = x'.waiters ∧ x''.settlingMark = x'.settlingMark ∧
      (∀ z, x''.walk = some z → z.listAddress = j.list.address ∧ z.entryCount = j.list.count ∧ z.listTag = j.list.tag) ∧
      (offerTags (switched j w 1 s)).postQueue = [q] ∧
      ∀ v o m p, { offerTags (switched j w 1 s) with tags := v, out := o, missQueue := m, postQueue := p } =
        switched j w 1 { s with tags := v, out := o, missQueue := m, postQueue := p } := by
  have ends {u : State} (walked : startWalks (switched j w 1 s) = u) (queue : u.postQueue = s.postQueue)
      (slots : u.slots = s.slots) (jobs' : u.jobs = s.jobs) (going' : u.quiescing = s.quiescing) :
      offerTags (switched j w 1 s) = u := by
    rw [← walked] at queue slots jobs' going' ⊢
    exact offerTags_eq_startWalks (grantOnce_of_translating (queue.trans entries) state
      fun n => (slot_congr slots n).trans (empty n)) (.inl (jobs'.trans jobs)) (going'.trans going)
  rcases startWalks_of_last (before := [x]) (s := switched j w 1 s) misses queued
      (fun v mem => by rw [List.mem_singleton.mp mem]; exact walking) with ⟨e, -, -, walked⟩ | ⟨-, walked⟩
  · rw [ends walked (startedOn_postQueue _ _ _ _) (startedOn_slots _ _ _ _) (startedOn_jobs _ _ _ _)
      (startedOn_quiescing _ _ _ _)]
    refine ⟨takenBy e x' (switched j w 1 s), startedOn_missQueue _ _ _ _, rfl, rfl, rfl, rfl, rfl, fun z started => ?_,
      (startedOn_postQueue _ _ _ _).trans entries, fun v o m p => ?_⟩
    · have record : (switched j w 1 s).ap x'.aperture = _ := own ▸ switched_ap j w 1 s
      rw [← Option.some.inj started]
      exact ⟨congrArg Aperture.listAddress record, congrArg Aperture.entryCount record, congrArg Aperture.listTag record⟩
    · rw [startedOn_rest, switched_rest]
  · rw [ends walked rfl rfl rfl rfl]
    refine ⟨x', misses, rfl, rfl, rfl, rfl, rfl, fun z started => ?_, entries, fun v o m p => switched_rest _ _ _ _ _ _ _ _⟩
    rw [queued] at started
    cases started

/-- Settles O37. -/
theorem aRebindJobSwitchesOrKeeps : Obligations.ARebindJobSwitchesOrKeeps := by
  intro t op j v s last rebind validating k g base kept
  have free (op' : Op) : TagState.free ≠ .outstanding op' := TagState.noConfusion
  have ends (w : Validation) : succeedJob j w (setTag t .free (unmoved s)) = switch k j.list (handedOver w) (base .free) := by
    rw [succeedJob, rebind]
    refine (congrArg (rebindSucceeds k j.list _) (closeJob_of_lastLine last free s.validation)).trans ?_
    exact if_pos (by rw [show (jobOver t .free s).ap k = s.ap k from rfl, validating]; rfl)
  have exec_passes {lanes w} (checked : checkEntries j.list.tag (s.ap k).windowSize (lineEntries op j v lanes) v = .passed w)
      (all : w.nextEntry = j.list.count) :
      exec (.responseOk t lanes) s = .next (offerTags (switch k j.list (handedOver w) (base .free))) := by
    rw [exec_ok_of_line last.toLineIn, lineOk_of_next (s := setTag t .free (unmoved s)) last.jobs last.record,
      processLines_of_all_passed (s := setTag t .free (unmoved s)) checked all, ends]
  have fails (none : NoTraffic s) (x : TagState) (f : JobFailure) (ended : ∀ op', x ≠ .outstanding op') :
      offerTags (failJob j f (setTag t x (unmoved s))) = kept f (base x) := by
    have failed : failJob j f (setTag t x (unmoved s)) = kept f (base x) := by
      rw [failJob, rebind]
      refine (congrArg (rebindFails k f) (closeJob_of_lastLine last ended s.validation)).trans ?_
      exact if_pos (by rw [show (jobOver t x s).ap k = s.ap k from rfl, validating]; rfl)
    rw [failed]
    exact offerTags_post_of_no_owners _ none.entries none.slots none.misses rfl last.going
  refine ⟨fun lanes w checked all => ⟨fun none => ?quiet, fun e n c entries here others misses issued flight reading flight' reads => ?flying,
    fun p h y i x entries empty misses walking aperture generation waiters translating place fits => ?translating⟩,
    fun none => ⟨fun lanes f checked => ?failed, fun i c x fails' => ?memory⟩⟩
  case quiet =>
    rw [exec_passes checked all, switch_of_noTraffic (s := base .free) ⟨none.entries, none.slots, none.misses⟩ last.unqueued]
    exact next_congr (offerTags_post_of_no_owners _ none.entries none.slots none.misses rfl last.going)
  case flying =>
    have switches := switch_of_flying (w := w) (s := base .free) entries here others misses flight flight' reads last.unqueued
      issued
    rw [exec_passes checked all, switches]
    refine next_congr (offerTags_of_all_issued (e := { e with core := e.core.marked })
      (c := { c with core := c.core.marked }) rfl (setSlot_slot_self _ _ _) (fun m other => ?_) misses rfl last.parked
      last.going flight.pieces flight'.pieces)
    exact (setSlot_slot _ _ _ _).trans ((if_neg other).trans (others m other))
  case translating =>
    have switches := switch_of_translating (w := w) (s := base .free) entries empty misses last.unqueued walking aperture
      generation waiters translating place fits
    obtain ⟨x', requests, own, next, target, waits, unmarked, walks, queue, rest⟩ := offerTags_of_restarted (j := j) (w := w)
      (s := withOwners [restartedEntry p y g] s.slots [{ waiterless x with settlingMark := true },
        requestOf p.ref (restarted p y g) k] (base .free)) rfl translating.state empty rfl walking rfl rfl last.going rfl
    exact ⟨_, x', (exec_passes checked all).trans (next_congr (congrArg offerTags switches)), requests, own, next, target, waits,
      unmarked, walks, queue, rest _ _ _ _⟩
  case failed =>
    rw [exec_ok_of_line last.toLineIn, lineOk_of_next (s := setTag t .free (unmoved s)) last.jobs last.record,
      processLines_of_failed (s := setTag t .free (unmoved s)) checked]
    exact next_congr (fails none .free f (fun _ => TagState.noConfusion))
  case memory =>
    obtain ⟨ended, m, cause, runs⟩ := exec_fails_of_line last.toLineIn fails'
    refine ⟨m, cause, runs.trans (next_congr ?_)⟩
    rw [lineFailed_of_next (s := setTag t x (unmoved s)) last.jobs last.record]
    exact fails none x _ ended

end Sys2Proof.Machine
end

section
/-! SUPPORT. A walk examines its line (R66), and what the installation of a find leaves of the cache (R48 to R51). -/

namespace Sys2Proof.Machine

open Sys2Proof.Claims

/-! ### Examining a line -/

theorem boundaryHolds_iff (x : Walk) (places : Checkpoints) (i o : Nat) :
    boundaryHolds x places i o = true ↔ OnCheckpoint x places i o := by
  have place : places[i / x.stride]?.getD none = some o ↔ places[i / x.stride]? = some (some o) := by
    cases places[i / x.stride]? <;> simp
  unfold boundaryHolds OnCheckpoint
  by_cases boundary : i % x.stride = 0
  · by_cases start : i = x.startIndex
    · simp [start]
    · simp [boundary, start, place]
  · simp [boundary]

theorem bytes_eq (e : RawEntry) : e.bytes = 16 * e.units := Nat.mul_comm _ _

theorem lengthOf_take_succ {es : List RawEntry} {m : Nat} {en : RawEntry} (here : es[m]? = some en) :
    lengthOf (es.take (m + 1)) = lengthOf (es.take m) + en.bytes := by
  rw [List.take_add_one, here, Option.toList_some, lengthOf_append, lengthOf_cons, lengthOf_nil, Nat.add_zero]

section
variable {w : WalkRequest} {x : Walk} {places : Checkpoints} {es : List RawEntry} {m : Nat}

theorem passesTo_of_succ (h : PassesTo w x places es (m + 1)) : PassesTo w x places es m :=
  ⟨Nat.le_of_succ_le h.1, fun j en below here => h.2 j en (Nat.lt_succ_of_lt below) here⟩

/-- A walk goes on past the entries before its place (R66). -/
theorem examine_of_passesTo (passes : PassesTo w x places es m) : examine x places w.target es x.index x.offset =
    examine x places w.target (es.drop m) (x.index + m) (x.offset + lengthOf (es.take m)) := by
  induction m with
  | zero => rfl
  | succ m ih =>
    obtain ⟨en, here⟩ : ∃ en, es[m]? = some en := ⟨es[m]'passes.1, List.getElem?_eq_getElem passes.1⟩
    obtain ⟨on, good, short, not_last⟩ := passes.2 m en (Nat.lt_succ_self m) here
    have inside : m < es.length := passes.1
    have front : es.drop m = en :: es.drop (m + 1) := by
      rw [List.drop_eq_getElem_cons inside]
      exact congrArg (· :: _) (Option.some.inj ((List.getElem?_eq_getElem inside).symm.trans here))
    rw [ih (passesTo_of_succ passes), front, examine, if_pos ((boundaryHolds_iff _ _ _ _).mpr on), good]
    rw [CoversTarget, ← bytes_eq] at short
    refine (if_neg short).trans ((if_neg not_last).trans ?_)
    rw [lengthOf_take_succ here, Nat.add_assoc, Nat.add_assoc]

theorem examine_of_all_passed (passes : PassesTo w x places es es.length) :
    examine x places w.target es x.index x.offset = .more (x.index + es.length) (x.offset + lengthOf es) := by
  rw [examine_of_passesTo passes, List.drop_length, List.take_length]
  rfl

theorem drop_of_here {en : RawEntry} (here : es[m]? = some en) : es.drop m = en :: es.drop (m + 1) := by
  obtain ⟨inside, rfl⟩ := List.getElem?_eq_some_iff.mp here
  exact List.drop_eq_getElem_cons inside

theorem examine_of_findsAt {en : RawEntry} (finds : FindsAt w x places es m en) :
    examine x places w.target es x.index x.offset = .found (x.index + m) (x.offset + lengthOf (es.take m)) en := by
  obtain ⟨passes, here, on, good, covers⟩ := finds
  rw [examine_of_passesTo passes, drop_of_here here, examine, if_pos ((boundaryHolds_iff _ _ _ _).mpr on), good]
  rw [CoversTarget, ← bytes_eq] at covers
  exact if_pos covers

theorem examine_of_findsWrong {c : Cause} {b : Option BadEntry} {i : Nat} (finds : FindsWrong w x places es c b i) :
    examine x places w.target es x.index x.offset = .finding { cause := c, sub := b, index := i } := by
  obtain ⟨m, en, passes, here, wrong⟩ := finds
  rw [examine_of_passesTo passes, drop_of_here here, examine]
  rcases wrong with ⟨off, rfl, rfl, rfl⟩ | ⟨on, ⟨d, bad, rfl, rfl, rfl⟩ | ⟨good, short, last, rfl, rfl, rfl⟩⟩
  · rw [if_neg fun h => off ((boundaryHolds_iff _ _ _ _).mp h)]
  · rw [if_pos ((boundaryHolds_iff _ _ _ _).mpr on), bad]
  · rw [CoversTarget, ← bytes_eq] at short
    rw [if_pos ((boundaryHolds_iff _ _ _ _).mpr on), good]
    simp only [if_neg short, if_pos last]

end

/-! ### The most recent reading answers -/

theorem foldl_laterReading {s : State} {i : Fin 32} (l : List (Fin 32)) (best : Option (Fin 32))
    (before : best = some i ∨ i ∈ l) (earlier : ∀ j, best = some j → j ≠ i → (s.cached j).reading < (s.cached i).reading)
    (later : ∀ j ∈ l, j ≠ i → (s.cached j).reading < (s.cached i).reading) : l.foldl (laterReading s) best = some i := by
  induction l generalizing best with
  | nil => exact before.resolve_right List.not_mem_nil
  | cons a l ih =>
    have rest : a ≠ i → best ≠ some i → i ∈ l := fun other not_yet =>
      (List.mem_cons.mp (before.resolve_left not_yet)).resolve_left other.symm
    have next (j : Fin 32) (mem : j ∈ l) := later j (List.mem_cons_of_mem a mem)
    have at_a := later a List.mem_cons_self
    cases best with
    | none =>
      refine ih (some a) ?_ (fun j same => Option.some.inj same ▸ at_a) next
      by_cases here : a = i
      · exact .inl (congrArg some here)
      · exact .inr (rest here (by simp))
    | some j =>
      by_cases found : j = i
      · subst found
        have stays : ¬(s.cached j).reading < (s.cached a).reading := fun less => by
          by_cases same : a = j
          · exact absurd less (same ▸ lt_irrefl _)
          · exact absurd (at_a same) (lt_asymm less)
        exact ih _ (.inl (if_neg stays)) (fun k same => by rw [laterReading, if_neg stays] at same; exact earlier k same) next
      · have less := earlier j rfl found
        by_cases here : a = i
        · have taken : laterReading s (some j) a = some i := by rw [here]; exact if_pos less
          exact ih _ (.inl taken) (fun k same => by rw [taken] at same; exact fun other => absurd (Option.some.inj same).symm other)
            next
        · refine ih _ (.inr (rest here (by simp [found]))) (fun k same other => ?_) next
          rw [laterReading] at same
          split at same
          · exact Option.some.inj same ▸ at_a here
          · exact earlier k same other

/-- Of the entries that answer a lookup, the one with the latest reading does (R51). -/
theorem lookup_eq_of_latest {k : ApId} {g : Gen} {off : Nat} {s : State} {i : Fin 32}
    (hits : (s.cached i).hits k g off = true) (later : ∀ j, j ≠ i → (s.cached j).reading < (s.cached i).reading) :
    lookup k g off s = some i :=
  foldl_laterReading _ none (.inr (List.mem_filter.mpr ⟨List.mem_finRange i, hits⟩)) (fun _ h => by cases h)
    fun j _ other => later j other

/-! ### Installing a find -/

theorem placeFound_cached (f : Found) (i : Fin 32) (s : State) :
    (placeFound f i s).cached i = f.entry 0 (nextReading s) := by
  simp [placeFound, Found.entry]

theorem placeFound_reading (f : Found) (i j : Fin 32) (other : j ≠ i) (s : State) :
    ((placeFound f i s).cached j).reading = (s.cached j).reading := by
  simp only [placeFound, touch_cached, setCached_cached, if_neg other]
  rw [apply_ite CacheEntry.reading]
  exact ite_self _

/-- A find is put in one entry, as the most recent reading and most recently used. -/
theorem install_cases (f : Found) (s : State) : ∃ i r, (install f s).cached i = f.entry 0 r ∧
    ∀ j, j ≠ i → ((install f s).cached j).reading < r := by
  have placed (i : Fin 32) (t : State) : (placeFound f i t).cached i = f.entry 0 (nextReading t) ∧
      ∀ j, j ≠ i → ((placeFound f i t).cached j).reading < nextReading t :=
    ⟨placeFound_cached f i t, fun j other => by
      rw [placeFound_reading f i j other]
      exact reading_lt_nextReading j t⟩
  unfold install
  split
  next i _ => exact ⟨i, _, placed i s⟩
  next => exact ⟨_, _, placed _ _⟩

theorem install_rest (f : Found) (s : State) : ∃ c, install f s = { s with cache := c } := by
  unfold install
  split
  next i _ => exact ⟨_, rfl⟩
  next => exact ⟨_, rfl⟩

/-- Where a find is installed it answers for every offset that it covers (R48, R51). -/
theorem install_answers (f : Found) (s : State) : ∃ i r, (install f s).cached i = f.entry 0 r ∧
    ∀ off, f.start ≤ off → off < f.start + f.length → lookup f.aperture f.generation off (install f s) = some i := by
  obtain ⟨i, r, entry, later⟩ := install_cases f s
  refine ⟨i, r, entry, fun off from' below => lookup_eq_of_latest ?_ fun j other => ?_⟩
  · rw [entry]
    simp [CacheEntry.hits, CacheEntry.covers, Found.entry, from', below]
  · rw [entry]
    exact later j other

end Sys2Proof.Machine
end

section
/-! CLAIM. A walk's find is installed and its waiters look up again (R61, R67, R68). -/

namespace Sys2Proof.Machine

open Sys2Proof.Claims

/-! ### A walk's line read is answered OK -/

section
variable {e : EngineId} {op : Op} {w : WalkRequest} {x : Walk} {rest : List WalkRequest} {s : State}
  (walking : WalkIn e op w x rest s)
include walking

theorem exec_ok_of_walking (lanes : Lanes) : exec (.responseOk (engineTag e) lanes) s = .next (offerTags
    (walkLine e op (bytesOfLanes op.address op.length lanes) (setTag (engineTag e) .free (unmoved s)))) := by
  refine (exec_responseOk_of_running walking.up walking.tag walking.live lanes).trans ?_
  rw [opOk, walking.owner]

theorem found_in_base (t : TagId) (u : TagState) : (setTag t u (unmoved s)).missQueue.find? (·.onEngine e) = some w :=
  walking_found (s := s) walking

theorem walkLine_of_found {lanes : Lanes} {t : TagId} {u : TagState} {i o : Nat} {en : RawEntry}
    (found : examine x (s.places w.aperture) w.target (walkEntries op lanes) x.index x.offset = .found i o en) :
    walkLine e op (bytesOfLanes op.address op.length lanes) (setTag t u (unmoved s)) =
      endWalk e (.find (foundExtent w i o en)) (setTag t u (unmoved s)) := by
  rw [walkEntries] at found
  rw [walkLine, found_in_base walking]
  simp only [walking.walk]
  rw [show (setTag t u (unmoved s)).places w.aperture = s.places w.aperture from rfl, found]

theorem walkLine_of_finding {lanes : Lanes} {t : TagId} {u : TagState} {f : Finding}
    (found : examine x (s.places w.aperture) w.target (walkEntries op lanes) x.index x.offset = .finding f) :
    walkLine e op (bytesOfLanes op.address op.length lanes) (setTag t u (unmoved s)) =
      endWalk e (.finding f) (setTag t u (unmoved s)) := by
  rw [walkEntries] at found
  rw [walkLine, found_in_base walking]
  simp only [walking.walk]
  rw [show (setTag t u (unmoved s)).places w.aperture = s.places w.aperture from rfl, found]

/-- Every entry passed, the walk reads its next line (R65). -/
theorem walkLine_of_more {lanes : Lanes} {u : TagState} {i o : Nat}
    (found : examine x (s.places w.aperture) w.target (walkEntries op lanes) x.index x.offset = .more i o) :
    walkLine e op (bytesOfLanes op.address op.length lanes) (setTag (engineTag e) u (unmoved s)) =
      issue (engineTag e) (walkRead e w x.listAddress x.entryCount i)
        { unmoved s with missQueue := { w with walk := some { x with index := i, offset := o } } :: rest } := by
  rw [walkEntries] at found
  have moved : updFirst (·.onEngine e) (fun w => { w with walk := some { x with index := i, offset := o } })
      (setTag (engineTag e) u (unmoved s)).missQueue = { w with walk := some { x with index := i, offset := o } } :: rest := by
    rw [show (setTag (engineTag e) u (unmoved s)).missQueue = [] ++ w :: rest from walking.misses]
    exact updFirst_append _ (fun y mem => absurd mem List.not_mem_nil) (walking_onEngine walking)
  rw [walkLine, found_in_base walking]
  simp only [walking.walk]
  rw [show (setTag (engineTag e) u (unmoved s)).places w.aperture = s.places w.aperture from rfl, found]
  have read : walkOp w { x with index := i, offset := o } = walkRead e w x.listAddress x.entryCount i :=
    (walkOp_eq w _).trans (congrArg (walkRead · w x.listAddress x.entryCount i) walking.engine)
  simp only [moved, read]
  exact issue_setTag (engineTag e) _ u
    { unmoved s with missQueue := { w with walk := some { x with index := i, offset := o } } :: rest }

end

/-! ### The find is taken -/

/-- The state with a find in the cache and the resume point set (R68). -/
def findTaken (f : Found) (c : Vector CacheEntry 32) (s : State) : State :=
  updAp f.aperture (fun a => { a with resume := some { index := f.index, start := f.start } }) { s with cache := c }

theorem findTaken_ap (f : Found) (c : Vector CacheEntry 32) (s : State) (k : ApId) : (findTaken f c s).ap k =
    if k = f.aperture then { s.ap k with resume := some { index := f.index, start := f.start } } else s.ap k := by
  refine (updAp_ap _ _ _ _).trans ?_
  by_cases same : k = f.aperture
  · rw [if_pos same, if_pos same, same]
    rfl
  · rw [if_neg same, if_neg same]
    rfl

theorem lookup_congr {k : ApId} {g : Gen} {off : Nat} {s t : State} (h : t.cache = s.cache) :
    lookup k g off t = lookup k g off s := by
  have later : laterReading t = laterReading s := by
    funext best i
    simp only [laterReading, cached_congr h]
  simp only [lookup, later, cached_congr h]

/-- A find is taken: the resume point is set, and the extent answers for every offset it covers. -/
theorem takeFind_answers (f : Found) (s : State) : ∃ c i r, takeFind f s = findTaken f c s ∧
    (findTaken f c s).cached i = f.entry 0 r ∧
    ∀ off, f.start ≤ off → off < f.start + f.length → lookup f.aperture f.generation off (findTaken f c s) = some i := by
  obtain ⟨c, shape⟩ := install_rest f s
  obtain ⟨i, r, entry, answers⟩ := install_answers f s
  rw [shape] at entry answers
  refine ⟨c, i, r, by rw [takeFind, shape]; rfl, entry, fun off from' below => ?_⟩
  rw [← answers off from' below]
  exact lookup_congr rfl

section
variable {e : EngineId} {op : Op} {w : WalkRequest} {x : Walk} {rest : List WalkRequest} {s : State}
  (current : CurrentWalk e op w x rest s) (active : (s.ap w.aperture).state = .active)
include current active

/-- The walk ends with a find: it is taken, and the waiters look up again. -/
theorem endWalk_of_find {f : Found} (t : TagId) (u : TagState) : endWalk e (.find f) (setTag t u (unmoved s)) =
    reofferWith (w.waiters.map (·.1)) [] (takeFind f (walkOver t u rest s)) := by
  have not_draining : ((walkOver t u rest s).ap w.aperture).state ≠ .draining := by
    rw [show ((walkOver t u rest s).ap w.aperture).state = .active from active]
    exact ApState.noConfusion
  rw [endWalk_of_walking (walkIn_of_walking (js := s.jobs) current.toWalking), drainTest_of_not_draining not_draining, walkOutcome,
    if_pos (currentWalk_walkOver current.kept current.current (by rw [active]; rfl) t u rest)]

end

/-! ### A waiting write hits -/

/-- The entry with the piece that its hit has fixed, fully translated (R55, R56, R93). -/
def readyEntry (p : PostEntry) (g : Progress) (q : Piece) : PostEntry :=
  { p with state := .ready, core := { p.core with
      pieces := p.core.pieces ++ [q], generation := some g.generation, progress := none } }

theorem setPostQueue_setPostQueue (q q' : List PostEntry) (s : State) :
    setPostQueue q (setPostQueue q' s) = setPostQueue q s := rfl

theorem finishTranslation_of_last_piece {p : PostEntry} {g : Progress} (progress : p.core.progress = some g) (q : Piece)
    (s : State) : finishTranslation p.ref
      (setPostQueue [{ p with core := { p.core with pieces := p.core.pieces ++ [q] } }] s) =
      setPostQueue [readyEntry p g q] s := by
  refine (finishTranslation_of_single (e := { p with core := { p.core with pieces := p.core.pieces ++ [q] } }) rfl).trans ?_
  rw [setPostQueue_setPostQueue, readyEntry]
  simp only [progress, Option.map_some]

theorem lookupPieces_of_map_hit {p : PostEntry} {g : Progress} {y : Place} {i : Fin 32} {q : Piece} {s : State}
    (entries : s.postQueue = [p]) (progress : p.core.progress = some g) (place : p.core.place = some y)
    (hit : lookup y.aperture (s.ap y.aperture).generation g.nextOffset s = some i)
    (piece : hitPiece y g (s.cached i) = q) (map : q.kind = .map) (whole : g.endOffset ≤ g.nextOffset + q.length) (n : Nat) :
    lookupPieces (n + 1) p.ref s = setPostQueue [readyEntry p g q] (touch i s) := by
  rw [lookupPieces, ownerCore_of_single entries]
  simp only [place, progress, hit, piece, map, pieceFault, if_pos whole]
  rw [updCore_of_single ((touch_postQueue i s).trans entries)]
  exact finishTranslation_of_last_piece progress q (touch i s)

/-- Of the only entry the head's turn is every leaving of its requester. -/
theorem leaveHead_eq_leaveAll {p : PostEntry} {s : State} (entries : s.postQueue = [p]) (r : ReqId) :
    leaveHead r s = leaveAll r s := by
  rw [leaveAll, entries]
  rfl

theorem offerTags_ready_entry {p : PostEntry} {g : Progress} {q : Piece} {d : TagId} {s : State}
    (empty : ∀ n : SlotId, s.slot n = none) (misses : s.missQueue = []) (jobs : s.jobs = []) (parked : s.parked = [])
    (going : s.quiescing = false) (pieces : p.core.pieces = []) (map : q.kind = .map) (pending : q.state = .pending)
    (target : q.target.isSome = true) (lowest : Lowest .data d s) :
    offerTags (leaveAll p.core.requester (setPostQueue [readyEntry p g q] s)) = issue d (writeOp (readyEntry p g q) q)
      { s with
        lastGrant := .write
        postQueue := [{ readyEntry p g q with
          state := .issued, core := { (readyEntry p g q).core with pieces := [{ q with state := .issued }] } }] } :=
  leaveAll_grant_of_map_piece (e := readyEntry p g q) (s := setPostQueue [readyEntry p g q] s) rfl rfl
    (by simp [readyEntry, pieces]) map pending target lowest empty misses jobs parked going

/-- A waiting write whose look up finds all its bytes in one MAP extent goes to memory in the same event (R61, R96). -/
theorem offerTags_reoffer_map_hit {p : PostEntry} {g : Progress} {y : Place} {i : Fin 32} {q : Piece} {d : TagId} {s : State}
    (entries : s.postQueue = [p]) (empty : ∀ n : SlotId, s.slot n = none) (unqueued : s.unqueued = [])
    (misses : s.missQueue = []) (jobs : s.jobs = []) (parked : s.parked = []) (going : s.quiescing = false)
    (progress : p.core.progress = some g) (place : p.core.place = some y) (pieces : p.core.pieces = [])
    (hit : lookup y.aperture (s.ap y.aperture).generation g.nextOffset s = some i)
    (piece : hitPiece y g (s.cached i) = q) (map : q.kind = .map) (target : q.target.isSome = true)
    (whole : g.endOffset ≤ g.nextOffset + q.length) (lowest : Lowest .data d s) :
    offerTags (reofferWith [p.ref] [] s) = issue d (writeOp (readyEntry p g q) q) { touch i s with
      lastGrant := .write
      postQueue := [{ readyEntry p g q with
        state := .issued, core := { (readyEntry p g q).core with pieces := [{ q with state := .issued }] } }] } := by
  have pending : q.state = .pending := by rw [← piece]; rfl
  have cleared : ({ s with unqueued := [] } : State) = s := by rw [← unqueued]
  have swept : reofferWith [p.ref] [] s = leaveAll p.core.requester (setPostQueue [readyEntry p g q] (touch i s)) := by
    have again : s.unqueued.map (·.owner) ++ [p.ref] = [p.ref] := by rw [unqueued]; rfl
    rw [reofferWith, cleared]
    simp only [again]
    rw [sweep_of_single entries empty]
    simp only [List.contains_nil, List.contains_cons, BEq.rfl, Bool.true_or, if_neg Bool.false_ne_true, if_true]
    rw [show lookUp p.ref s = _ from lookupPieces_of_map_hit entries progress place hit piece map whole 63]
    exact (leaveTurn_of_head (p := readyEntry p g q) rfl).trans (leaveHead_eq_leaveAll (p := readyEntry p g q) rfl _)
  rw [swept]
  have lowest' : Lowest .data d (touch i s) := by
    refine ⟨lowest.1, ?_, fun v below cls => ?_⟩
    · rw [tag_congr (touch_tags i s)]
      exact lowest.2.1
    · rw [tag_congr (touch_tags i s)]
      exact lowest.2.2 v below cls
  exact offerTags_ready_entry (fun n => (slot_congr (touch_slots i s) n).trans (empty n)) (by simp [misses]) (by simp [jobs])
    (by simp [parked]) (by simp [going]) pieces map pending target lowest'

theorem kindOfCode_of_good {tag : Byte} {en : RawEntry} (good : checkEntry tag en = none) :
    some en.kind = kindOfCode en.kindCode := by
  obtain ⟨-, -, -, code, -⟩ := (checkEntry_eq_none_iff tag en).mp good
  obtain ⟨k, known, -⟩ := kindOfCode_of_le (Nat.not_lt.mpr code)
  rw [RawEntry.kind, known]
  rfl

/-- Settles O29. -/
theorem aFindIsInstalled : Obligations.AFindIsInstalled := by
  intro e op w x rest lanes s es own
  refine ⟨fun m en current active finds => ?found, fun walking none passes => ?more⟩
  case found =>
    intro i o aps
    have walkIn := walkIn_of_walking (js := s.jobs) current.toWalking
    have runs : exec (.responseOk own lanes) s = .next (offerTags (reofferWith (w.waiters.map (·.1)) []
        (takeFind (foundExtent w i o en) (walkOver own .free rest s)))) := by
      rw [show own = engineTag e from rfl, exec_ok_of_walking walkIn, walkLine_of_found walkIn (examine_of_findsAt finds),
        endWalk_of_find current active]
    obtain ⟨c, j, r, taken, entry, answers⟩ := takeFind_answers (foundExtent w i o en) (walkOver own .free rest s)
    rw [taken] at runs
    obtain ⟨-, -, -, good, -⟩ := finds
    have record (k : ApId) : (findTaken (foundExtent w i o en) c (walkOver own .free rest s)).ap k = if k = w.aperture
        then { s.ap k with resume := some { index := i, start := o } } else s.ap k :=
      findTaken_ap _ _ _ k
    refine ⟨fun waiters none => ?alone, fun p y d => ?waiter⟩
    case alone =>
      have over' : reofferWith (w.waiters.map (·.1)) [] (findTaken (foundExtent w i o en) c (walkOver own .free rest s)) =
          findTaken (foundExtent w i o en) c (walkOver own .free rest s) :=
        reofferWith_of_no_owners current.unqueued none.entries none.slots
      have ends : offerTags (findTaken (foundExtent w i o en) c (walkOver own .free rest s)) =
          findTaken (foundExtent w i o en) c (walkOver own .free rest s) :=
        offerTags_of_nothingWaits ⟨current.going, none.running, .inl current.jobs, waitingWrite_of_nil none.entries,
          waitingRead_of_empty none.slots⟩
      rw [over', ends] at runs
      refine ⟨_, runs, rfl, ?_, rfl, rfl, ⟨rfl, rfl, rfl, rfl, rfl, rfl, rfl, rfl⟩, rfl, rfl, none.entries, rfl, ?_, record,
        fun off from' below => ⟨j, answers off from' (by rw [← bytes_eq] at below; exact below), ?_⟩⟩
      · exact (setTag_tag _ _ _ _).trans (if_pos rfl)
      · exact fun v other => (setTag_tag _ _ _ _).trans (if_neg other)
      · rw [entry]
        exact ⟨rfl, rfl, bytes_eq en, rfl, kindOfCode_of_good good, rfl⟩
    case waiter =>
      intro address alone entries empty parked pieces place waiters translating from' inside fits map lowest
      subst alone
      let g : Progress := { nextPiece := 0, nextOffset := y.offset, endOffset := y.offset + p.core.length
                            generation := w.generation, waiting := .attached }
      let q : Piece := { index := 0, offset := 0, length := p.core.length, extentIndex := some i, kind := .map
                         target := some address, generation := some w.generation, state := .pending }
      have hit : lookup y.aperture ((findTaken (foundExtent w i o en) c (walkOver own .free [] s)).ap y.aperture).generation
          y.offset (findTaken (foundExtent w i o en) c (walkOver own .free [] s)) = some j := by
        rw [record y.aperture, if_pos place, place, ← current.current]
        exact answers y.offset from' (by rw [← bytes_eq] at inside; exact inside)
      have kind : en.kind = .map := by simp [RawEntry.kind, kindOfCode, map]
      have piece : hitPiece y g ((findTaken (foundExtent w i o en) c (walkOver own .free [] s)).cached j) = q := by
        have within : min (y.offset + p.core.length) (o + en.bytes) - y.offset = p.core.length := by
          rw [bytes_eq]
          omega
        rw [entry]
        simp [hitPiece, g, q, Found.entry, foundExtent, CacheEntry.targetAt, kind, ExtentKind.usesTarget, within, address]
      have not_own : own ≠ d := fun same => by
        have cls := lowest.1
        rw [← same, show own = engineTag e from rfl, engineTag_class] at cls
        cases cls
      have lowest' : Lowest .data d (findTaken (foundExtent w i o en) c (walkOver own .free [] s)) := by
        have stands (v : TagId) (cls : tagClass v = .data) :
            (findTaken (foundExtent w i o en) c (walkOver own .free [] s)).tag v = s.tag v := by
          refine (setTag_tag own v _ _).trans (if_neg fun same => ?_)
          rw [same, show own = engineTag e from rfl, engineTag_class] at cls
          cases cls
        exact ⟨lowest.1, (stands d lowest.1).trans lowest.2.1,
          fun v below cls free => lowest.2.2 v below cls ((stands v cls).symm.trans free)⟩
      have goes := offerTags_reoffer_map_hit (s := findTaken (foundExtent w i o en) c (walkOver own .free [] s)) entries empty
        current.unqueued rfl current.jobs parked current.going translating.progress translating.place pieces hit piece rfl rfl
        (le_refl _) lowest'
      rw [waiters, List.map_singleton, goes] at runs
      refine ⟨_, runs, ?_, ?_, ?_, ?_, ?_, ?_, ?_, ?_, fun k => ?_⟩
      · simp [issue, findTaken, walkOver, unmoved, writeOp, readyEntry, q]
      · simp [readyEntry, pieces, q]
      · simp [findTaken, walkOver]
      · rw [issue_tag, if_neg not_own]
        refine (tag_congr (s := walkOver own .free [] s) ?_ own).trans ((setTag_tag _ _ _ _).trans (if_pos rfl))
        simp [findTaken]
      · simp [findTaken, walkOver, unmoved]
      · constructor <;> simp [findTaken, walkOver, unmoved]
      · simp [findTaken, walkOver, unmoved]
      · simp [findTaken, walkOver, unmoved]
      · refine (ap_congr ?_ k).trans (record k)
        simp
  case more =>
    have walkIn := walkIn_of_walking (js := s.jobs) walking
    have runs := exec_ok_of_walking walkIn lanes
    rw [walkLine_of_more walkIn (examine_of_all_passed passes)] at runs
    refine runs.trans (next_congr (offerTags_of_nothingWaits ⟨walking.going, fun z mem => ?_, .inl walking.jobs,
      waitingWrite_of_nil none.entries, waitingRead_of_empty none.slots⟩))
    exact (List.mem_cons.mp mem).elim (fun same => same ▸ rfl) (none.running z)

end Sys2Proof.Machine
end

section
/-! SUPPORT. A list's fault (R19 to R21): what it does to the aperture's record, its cache entries and its walks. -/

namespace Sys2Proof.Machine

open Sys2Proof.Claims

/-- A request of the aperture that faults: its mark goes, and a walk that runs is to be dropped (R19, R21). -/
def overruled (k : ApId) (y : WalkRequest) : WalkRequest :=
  if y.aperture = k then { y with settlingMark := false, dropped := y.dropped || y.walk.isSome } else y

/-- The state in which the list has faulted, before its owners are withdrawn (R19, R21). -/
def faultedBy (k : ApId) (s : State) : State :=
  { updAp k Aperture.fault s with
    cache := s.cache.map fun e => if e.aperture = k then { e with valid := false } else e
    missQueue := s.missQueue.map (overruled k) }

/-- No owner carries a settling mark. -/
structure Unmarked (s : State) : Prop where
  entries : ∀ e ∈ s.postQueue, e.core.settlingMark = false
  slots : ∀ n c, s.slot n = some c → c.core.settlingMark = false

theorem unmarked_of_noOwners {rest : List WalkRequest} {s : State} (none : NoOwners rest s) : Unmarked s :=
  ⟨by simp [none.entries], fun n c here => by rw [none.slots n] at here; cases here⟩

theorem clearMarks_of_unmarked {k : ApId} {s : State} (unmarked : Unmarked s) : clearMarks k s =
    { s with missQueue := s.missQueue.map fun w => if w.aperture == k then { w with settlingMark := false } else w } := by
  have clear (c : OwnerCore) (mark : c.settlingMark = false) :
      (if (c.place.map (·.aperture)) == some k then { c with settlingMark := false } else c) = c := by
    rw [← mark]
    exact ite_self c
  have queue : (clearMarks k s).postQueue = s.postQueue :=
    (List.map_congr_left fun e mem => by
      simp only [clear e.core (unmarked.entries e mem)]
      rfl).trans (List.map_id _)
  have slots : (clearMarks k s).slots = s.slots := slots_ext fun n => by
    have mark := unmarked.slots n
    simp only [State.slot, clearMarks, Vector.getElem_map] at mark ⊢
    cases here : s.slots[n.val] with
    | none => rfl
    | some c => simp only [Option.map_some, clear c.core (mark c here)]
  rw [clearMarks] at queue slots ⊢
  simp only at queue slots
  rw [queue, slots]

theorem drop_unmark_eq (k : ApId) (y : WalkRequest) :
    (fun w : WalkRequest => if w.walk.isSome && w.aperture == k then { w with dropped := true } else w)
      (if y.aperture == k then { y with settlingMark := false } else y) = overruled k y := by
  by_cases own : y.aperture = k
  · cases walk : y.walk.isSome
    · simp [overruled, own, walk]
    · simp [overruled, own, walk]
  · simp [overruled, own]

theorem fault_steps {k : ApId} {s : State} (unmarked : Unmarked s) :
    dropWalks k (invalidateAp k (clearMarks k (updAp k Aperture.fault s))) = faultedBy k s := by
  have misses : (s.missQueue.map fun y => if y.aperture == k then { y with settlingMark := false } else y).map
      (fun w => if w.walk.isSome && w.aperture == k then { w with dropped := true } else w) =
      s.missQueue.map (overruled k) := by
    rw [List.map_map]
    exact List.map_congr_left fun y _ => drop_unmark_eq k y
  rw [clearMarks_of_unmarked (s := updAp k Aperture.fault s) ⟨unmarked.entries, unmarked.slots⟩, invalidateAp_eq, dropWalks,
    faultedBy, ← misses]
  rfl

theorem faultedBy_ap (k j : ApId) (s : State) : (faultedBy k s).ap j = if j = k
    then { s.ap k with state := .faulted, pendingList := none, settling := 0, resume := none } else s.ap j := by
  refine (updAp_ap k j Aperture.fault s).trans ?_
  by_cases same : j = k
  · rw [if_pos same, if_pos same]
    rfl
  · rw [if_neg same, if_neg same]

theorem faultedBy_cached (k : ApId) (i : Fin 32) (s : State) : (faultedBy k s).cached i =
    if (s.cached i).aperture = k then { s.cached i with valid := false } else s.cached i := by
  simp only [State.cached, faultedBy, Vector.getElem_map]
  rfl

theorem overruled_of_running {k : ApId} {y : WalkRequest} (running : y.walk.isSome = true) : overruled k y =
    if y.aperture = k then { y with settlingMark := false, dropped := true } else y := by
  simp [overruled, running]

/-- The APERTURE_FAULTED of a list (R19). -/
def faultReport (k : ApId) (f : Finding) (s : State) : Report where
  kind := .apertureFaulted
  cause := some f.cause
  sub := f.sub.map SubReason.bad
  aperture := some k
  generation := some (s.ap k).generation
  extentIndex := some f.index

/-- The REBIND_FAILED (ABORTED) of a rebind whose list faults (R20). -/
def abortReport (k : ApId) (s : State) : Report where
  kind := .rebindFailed
  cause := some .aborted
  aperture := some k
  generation := some (s.ap k).generation

theorem faultAperture_eq {k : ApId} {f : Finding} {s : State} (unmarked : Unmarked s) : faultAperture k f s =
    if (s.ap k).state = .rebinding .validating
    then post (abortReport k s) (cancelJob k (withdrawAll k (post (faultReport k f s) (faultedBy k s))))
    else withdrawAll k (post (faultReport k f s) (faultedBy k s)) := by
  rw [faultAperture, fault_steps unmarked]
  exact if_congr beq_iff_eq rfl rfl

/-! ### Withdrawal where there is no owner -/

theorem withdrawAll_of_no_owners {k : ApId} {s : State} (entries : s.postQueue = []) (empty : ∀ n : SlotId, s.slot n = none)
    (running : ∀ y ∈ s.missQueue, y.walk.isSome = true) : withdrawAll k s = s := by
  have os : untranslatedOwners k s = [] := by rw [untranslatedOwners, owners_of_none entries empty]; rfl
  have kept : s.missQueue.filter (fun w => w.walk.isSome || !(w.aperture == k)) = s.missQueue :=
    List.filter_eq_self.mpr fun y mem => by simp [running y mem]
  rw [withdrawAll, os]
  simp only [detachAll, List.foldl_nil, kept]
  exact sweep_of_no_owners entries empty

end Sys2Proof.Machine
end

section
/-! CLAIM. A walk that finds its list changed (R19 to R23, R66, R67, R69). -/

namespace Sys2Proof.Machine

open Sys2Proof.Claims

/-! ### A walk ends with a finding -/

section
variable {e : EngineId} {op : Op} {w : WalkRequest} {x : Walk} {rest : List WalkRequest} {lanes : Lanes} {s : State}

theorem exec_finding (walking : WalkIn e op w x rest s) {f : Finding}
    (wrong : FindsWrong w x (s.places w.aperture) (walkEntries op lanes) f.cause f.sub f.index) :
    exec (.responseOk (engineTag e) lanes) s = .next (offerTags (reofferWith (w.waiters.map (·.1)) []
      (walkOutcome w (.finding f) (drainTest w.aperture (walkOver (engineTag e) .free rest s))))) := by
  rw [exec_ok_of_walking walking, walkLine_of_finding walking (examine_of_findsWrong wrong), endWalk_of_walking walking]

/-- A current finding faults an aperture that is ACTIVE or REBINDING. -/
theorem walkOutcome_faults {f : Finding} {t : TagId} {u : TagState} (kept : w.dropped = false)
    (current : w.generation = (s.ap w.aperture).generation) (serves : (s.ap w.aperture).state.serves = true) :
    walkOutcome w (.finding f) (drainTest w.aperture (walkOver t u rest s)) =
      faultAperture w.aperture f (walkOver t u rest s) := by
  have state : ((walkOver t u rest s).ap w.aperture).state = (s.ap w.aperture).state := rfl
  have not_draining : (s.ap w.aperture).state ≠ .draining := fun h => by rw [h] at serves; cases serves
  have translates : (s.ap w.aperture).state.translates = true := by
    revert serves
    cases (s.ap w.aperture).state <;> simp [ApState.serves, ApState.translates]
  rw [drainTest_of_not_draining (state ▸ not_draining), walkOutcome,
    if_pos (currentWalk_walkOver kept current translates t u rest)]
  exact if_neg (by rw [state]; simpa using not_draining)

end

/-! ### The fault with no owner -/

theorem overruled_running {k : ApId} {rest : List WalkRequest} {s : State} (none : NoOwners rest s) :
    ∀ y ∈ rest.map (overruled k), y.walk.isSome = true := by
  intro y mem
  obtain ⟨z, member, rfl⟩ := List.mem_map.mp mem
  rw [overruled]
  split
  · exact none.running z member
  · exact none.running z member

section
variable {w : WalkRequest} {rest : List WalkRequest} {s : State} (none : NoOwners rest s)
include none

/-- The list has faulted, no owner standing, and APERTURE_FAULTED is posted. -/
theorem withdrawAll_after_fault (k : ApId) (f : Finding) (t : TagId) (u : TagState) :
    withdrawAll k (post (faultReport k f (walkOver t u rest s)) (faultedBy k (walkOver t u rest s))) =
      post (faultReport k f (walkOver t u rest s)) (faultedBy k (walkOver t u rest s)) := by
  refine withdrawAll_of_no_owners ?_ (fun n => (slot_congr (post_slots _ _) n).trans (none.slots n)) ?_
  · exact (post_postQueue _ _).trans none.entries
  · rw [post_missQueue]
    exact overruled_running none

end

theorem offerTags_of_running_walks {s : State} (going : s.quiescing = false)
    (running : ∀ y ∈ s.missQueue, y.walk.isSome = true) (jobs : s.jobs = []) (entries : s.postQueue = [])
    (empty : ∀ n : SlotId, s.slot n = none) : offerTags s = s :=
  offerTags_of_nothingWaits ⟨going, running, .inl jobs, waitingWrite_of_nil entries, waitingRead_of_empty empty⟩

/-! ### The job of an aperture that faults -/

theorem cancelJob_of_running {k : ApId} {j : Job} {s : State} (jobs : s.jobs = [j]) (own : j.aperture = k)
    (running : j.running = true) : cancelJob k s = cancelOps anyLine true { s with jobs := [], validation := none } := by
  have gone : s.jobs.filter (fun j => !(j.aperture == k)) = [] := by simp [jobs, own]
  have head : (s.jobs.head?.elim false fun j => j.aperture == k && j.running) = true := by simp [jobs, own, running]
  rw [cancelJob, gone, head]
  rfl

theorem cancelJob_of_waiting {k : ApId} {first j : Job} {before after : List Job} {s : State}
    (jobs : s.jobs = first :: (before ++ j :: after)) (own : j.aperture = k)
    (others : ∀ y ∈ first :: (before ++ after), y.aperture ≠ k) :
    cancelJob k s = { s with jobs := first :: (before ++ after) } := by
  have kept (l : List Job) (sub : ∀ y ∈ l, y ∈ first :: (before ++ after)) :
      l.filter (fun j => !(j.aperture == k)) = l :=
    List.filter_eq_self.mpr fun y mem => by simpa using others y (sub y mem)
  have rest : s.jobs.filter (fun j => !(j.aperture == k)) = first :: (before ++ after) := by
    rw [jobs, List.filter_cons_of_pos (by simpa using others first List.mem_cons_self), List.filter_append,
      List.filter_cons_of_neg (by simp [own]), kept before (by simp +contextual), kept after (by simp +contextual)]
  have head : (s.jobs.head?.elim false fun j => j.aperture == k && j.running) = false := by
    simp [jobs, others first List.mem_cons_self]
  rw [cancelJob, rest, head]
  rfl

theorem unmarked_walkOver {s : State} (h : Unmarked s) (t : TagId) (u : TagState) (rest : List WalkRequest) :
    Unmarked (walkOver t u rest s) := ⟨h.entries, h.slots⟩

/-! ### The fault with no owner, to the end of the event -/

/-- The list has faulted and APERTURE_FAULTED is posted. -/
def faultPosted (k : ApId) (f : Finding) (s : State) : State := post (faultReport k f s) (faultedBy k s)

section
variable {k : ApId} {f : Finding} {own : TagId} {rest : List WalkRequest} {s : State}

theorem faultPosted_free : (faultPosted k f (walkOver own .free rest s)).tag own = .free :=
  (post_tag _ _ _).trans ((setTag_tag _ _ _ _).trans (if_pos rfl))

theorem faultPosted_tag {u : TagId} (other : u ≠ own) :
    (faultPosted k f (walkOver own .free rest s)).tag u = s.tag u :=
  (post_tag _ _ _).trans ((setTag_tag _ _ _ _).trans (if_neg other))

theorem faultPosted_untouched : Untouched s (faultPosted k f (walkOver own .free rest s)) := by
  constructor <;> simp [faultPosted, walkOver, faultedBy, unmoved]

theorem faultPosted_reports (room : s.reports.length < 16) : (faultPosted k f (walkOver own .free rest s)).reports =
    s.reports ++ [faultReport k f (walkOver own .free rest s)] :=
  congrArg State.reports (post_of_room (s := faultedBy k (walkOver own .free rest s)) _ room)

end

/-- What the fault of a list with no owner leaves, other than the reports, the jobs and the tags. -/
structure FaultLeaves (k : ApId) (rest : List WalkRequest) (own : TagId) (s t : State) : Prop where
  misses : t.missQueue = rest.map (overruled k)
  unqueued : t.unqueued = s.unqueued
  free : t.tag own = .free
  requesters : t.requesters = s.requesters
  checkpoints : t.checkpoints = s.checkpoints
  entries : t.postQueue = s.postQueue
  slots : t.slots = s.slots
  out : t.out = {}
  apertures : ∀ j, t.ap j = if j = k
    then { s.ap k with state := .faulted, pendingList := none, settling := 0, resume := none } else s.ap j
  cache : ∀ i, t.cached i = if (s.cached i).aperture = k then { s.cached i with valid := false } else s.cached i
  quiescing : t.quiescing = s.quiescing

theorem faultPosted_leaves (k : ApId) (f : Finding) (own : TagId) (rest : List WalkRequest) (s : State) :
    FaultLeaves k rest own s (faultPosted k f (walkOver own .free rest s)) := by
  refine ⟨post_missQueue _ _, post_unqueued _ _, faultPosted_free, post_requesters _ _, post_checkpoints _ _,
    post_postQueue _ _, post_slots _ _, post_out _ _, fun j => ?_, fun i => ?_, post_quiescing _ _⟩
  · exact (ap_congr (post_apertures _ _) j).trans (faultedBy_ap k j _)
  · exact (cached_congr (post_cache _ _) i).trans (faultedBy_cached k i _)

section
variable {k : ApId} {rest : List WalkRequest} {own : TagId} {s t : State} (h : FaultLeaves k rest own s t)
include h

theorem FaultLeaves.posted (q : Report) : FaultLeaves k rest own s (post q t) :=
  ⟨(post_missQueue _ _).trans h.misses, (post_unqueued _ _).trans h.unqueued, (post_tag _ _ _).trans h.free,
    (post_requesters _ _).trans h.requesters, (post_checkpoints _ _).trans h.checkpoints,
    (post_postQueue _ _).trans h.entries, (post_slots _ _).trans h.slots, (post_out _ _).trans h.out,
    fun j => (ap_congr (post_apertures _ _) j).trans (h.apertures j),
    fun i => (cached_congr (post_cache _ _) i).trans (h.cache i), (post_quiescing _ _).trans h.quiescing⟩

theorem FaultLeaves.dequeued (js : List Job) (v : Option Validation) :
    FaultLeaves k rest own s { t with jobs := js, validation := v } :=
  ⟨h.misses, h.unqueued, h.free, h.requesters, h.checkpoints, h.entries, h.slots, h.out, h.apertures, h.cache, h.quiescing⟩

theorem FaultLeaves.cancelled (pick : OpName → Bool) (gone : Bool) : FaultLeaves k rest own s (cancelOps pick gone t) :=
  ⟨h.misses, h.unqueued, (cancelOps_tag _ _ _ _).trans (congrArg (TagState.cancel pick gone) h.free), h.requesters,
    h.checkpoints, h.entries, h.slots, h.out, h.apertures, h.cache, h.quiescing⟩

end

section
variable {k : ApId} {rest : List WalkRequest} {own : TagId} {s t : State} (leaves : FaultLeaves k rest own s t)
  (none : NoOwners rest s)
include leaves none

theorem FaultLeaves.running : ∀ y ∈ t.missQueue, y.walk.isSome = true := by
  rw [leaves.misses]
  exact overruled_running none

theorem FaultLeaves.reofferWith_eq (unqueued : s.unqueued = []) (ws : List OwnerRef) : reofferWith ws [] t = t :=
  reofferWith_of_no_owners (leaves.unqueued.trans unqueued) (leaves.entries.trans none.entries)
    fun n => (slot_congr leaves.slots n).trans (none.slots n)

theorem FaultLeaves.grantOnce_eq : grantOnce t = Option.none :=
  grantOnce_of_none_waiting (waitingWrite_of_nil (leaves.entries.trans none.entries))
    (waitingRead_of_empty fun n => (slot_congr leaves.slots n).trans (none.slots n))

theorem FaultLeaves.offerTags_eq (going : s.quiescing = false) (still : runValidation t = t) : offerTags t = t := by
  rw [offerTags, startWalks_of_noneQueued (leaves.running none), grants_of_none 12 (leaves.grantOnce_eq none), still,
    softResetTest_of_not_due (resetDue_of_going (leaves.quiescing.trans going))]

end

theorem tagClass_engineTag (e : EngineId) : tagClass (engineTag e) = .walk := by
  revert e
  decide

/-- With every validation tag held and a job running, the validation engine does nothing. -/
theorem runValidation_of_noneFree {j : Job} {js : List Job} {s : State} (jobs : s.jobs = j :: js) (running : j.running = true)
    (busy : NoneFree .validation s) : runValidation s = s := by
  have started : startJob s = s := by
    rw [startJob, jobs]
    exact if_pos running
  rw [runValidation, started, issueLine_of_noneFree busy, issueLine_of_noneFree busy]

section
variable {e : EngineId} {op : Op} {w : WalkRequest} {x : Walk} {rest : List WalkRequest} {lanes : Lanes} {f : Finding}
  {s : State} (walking : WalkIn e op w x rest s) (kept : w.dropped = false)
  (current : w.generation = (s.ap w.aperture).generation)
  (wrong : FindsWrong w x (s.places w.aperture) (walkEntries op lanes) f.cause f.sub f.index)
include walking kept current wrong

/-- A current finding of an aperture that serves faults it, and the waiters that are left are offered again. -/
theorem exec_fault (serves : (s.ap w.aperture).state.serves = true) : exec (.responseOk (engineTag e) lanes) s =
    .next (offerTags (reofferWith (w.waiters.map (·.1)) []
      (faultAperture w.aperture f (walkOver (engineTag e) .free rest s)))) := by
  rw [exec_finding walking wrong, walkOutcome_faults kept current serves]

/-- The fault of a list with no owner and no job of its own. -/
theorem exec_fault_serving (none : NoOwners rest s) (unqueued : s.unqueued = []) (jobs : s.jobs = [])
    (going : s.quiescing = false) (serves : (s.ap w.aperture).state.serves = true)
    (not_validating : (s.ap w.aperture).state ≠ .rebinding .validating) :
    exec (.responseOk (engineTag e) lanes) s =
      .next (faultPosted w.aperture f (walkOver (engineTag e) .free rest s)) := by
  have leaves := faultPosted_leaves w.aperture f (engineTag e) rest s
  have faults : faultAperture w.aperture f (walkOver (engineTag e) .free rest s) =
      faultPosted w.aperture f (walkOver (engineTag e) .free rest s) := by
    rw [faultAperture_eq (unmarked_walkOver (unmarked_of_noOwners none) _ _ _)]
    refine (if_neg not_validating).trans ?_
    exact withdrawAll_after_fault none _ f _ _
  rw [exec_fault walking kept current wrong serves, faults, leaves.reofferWith_eq none unqueued,
    leaves.offerTags_eq none going (runValidation_of_no_jobs ((post_jobs _ _).trans jobs))]

/-- The fault of a list with no owner, whose REBIND's job is cancelled. -/
theorem exec_fault_validating (none : NoOwners rest s) (unqueued : s.unqueued = []) (going : s.quiescing = false)
    (validating : (s.ap w.aperture).state = .rebinding .validating) {t : State}
    (cancelled : cancelJob w.aperture (faultPosted w.aperture f (walkOver (engineTag e) .free rest s)) = t)
    (leaves : FaultLeaves w.aperture rest (engineTag e) s
      (post (abortReport w.aperture (walkOver (engineTag e) .free rest s)) t))
    (still : runValidation (post (abortReport w.aperture (walkOver (engineTag e) .free rest s)) t) =
      post (abortReport w.aperture (walkOver (engineTag e) .free rest s)) t) :
    exec (.responseOk (engineTag e) lanes) s =
      .next (post (abortReport w.aperture (walkOver (engineTag e) .free rest s)) t) := by
  have faults : faultAperture w.aperture f (walkOver (engineTag e) .free rest s) =
      post (abortReport w.aperture (walkOver (engineTag e) .free rest s)) t := by
    rw [faultAperture_eq (unmarked_walkOver (unmarked_of_noOwners none) _ _ _)]
    refine (if_pos validating).trans ?_
    rw [withdrawAll_after_fault none, ← cancelled]
    rfl
  rw [exec_fault walking kept current wrong (by rw [validating]; rfl), faults, leaves.reofferWith_eq none unqueued,
    leaves.offerTags_eq none going still]

end

theorem tag_of_line {u : TagId} {o : Op} {n : Nat} {s : State} (out : s.tag u = .outstanding o)
    (line : o.owner = some (.line n)) :
    (s.tag u).cancel anyLine true = .outstanding { o with cancelled := true, owner := none } := by
  rw [out, TagState.cancel_of_picked line rfl]
  rfl

theorem tag_of_no_line {x : TagState} (other : ∀ o n, x = .outstanding o → o.owner ≠ some (.line n)) :
    x.cancel anyLine true = x := by
  refine TagState.cancel_of_not_picked (fun o owner out named => ?_) true
  refine Bool.eq_false_iff.mpr fun picked => ?_
  obtain ⟨n, rfl⟩ := (anyLine_iff owner).mp picked
  exact other o n out named

theorem mem_parked_cancelOps (z : Parked) (s : State) : z ∈ (cancelOps anyLine true s).parked ↔
    z ∈ s.parked ∧ ∀ n, z.op.owner ≠ some (.line n) := by
  refine List.mem_filter.trans (and_congr_right fun _ => ?_)
  cases owner : z.op.owner with
  | none => simp
  | some o => cases o <;> simp [anyLine]

end Sys2Proof.Machine
end

section
/-! SUPPORT. Walks whose outcome faults nothing (R21, R67, R69): a dropped result, and a finding of a DRAINING aperture. -/

namespace Sys2Proof.Machine

open Sys2Proof.Claims

/-! ### Sweeps over slots that stand -/

/-- Where nothing is done to the slots, a sweep over the only entry and the slots is the entry's turn. -/
theorem sweep_of_entry_among_slots {act : OwnerRef → State → State} {p : PostEntry} {s : State} (entries : s.postQueue = [p])
    (idle : ∀ n t, act (.slot n) t = t) : sweep act s = leaveTurn p.ref (act p.ref s) := by
  have writes : (owners s).filter isWrite = [p.ref] := by
    refine List.perm_singleton.mp (((owners_perm s).filter isWrite).trans ?_)
    have none : ((occupied s).map OwnerRef.slot).filter isWrite = [] :=
      List.filter_eq_nil_iff.mpr fun o mem => by
        obtain ⟨n, -, rfl⟩ := List.mem_map.mp mem
        exact Bool.false_ne_true
    rw [entries, List.filter_append, none]
    exact .refl _
  have turns (o : OwnerRef) (t : State) : leaveTurn o (act o t) = if isWrite o then leaveTurn o (act o t) else t := by
    cases o with
    | entry r q => rfl
    | slot n => exact idle n t
  calc sweep act s = (owners s).foldl (fun t o => if isWrite o then leaveTurn o (act o t) else t) s :=
        List.foldl_ext _ _ _ fun t o _ => turns o t
    _ = ((owners s).filter isWrite).foldl (fun t o => leaveTurn o (act o t)) s := List.foldl_filter.symm
    _ = leaveTurn p.ref (act p.ref s) := by rw [writes]; rfl

theorem reofferWith_of_no_entries {ws : List OwnerRef} {s : State} (unqueued : s.unqueued = []) (entries : s.postQueue = [])
    (writes : ∀ n, OwnerRef.slot n ∉ ws) : reofferWith ws [] s = s := by
  have same : { s with unqueued := [] } = s := by rw [← unqueued]
  rw [reofferWith, same, unqueued]
  exact sweep_of_idle entries fun n t => by simp [writes n]

/-! ### A DRAINING aperture with an owner left -/

theorem addFault_ap (p : Option Place) (k : ApId) (s : State) : (addFault p s).ap k =
    { s.ap k with faultCount :=
        if (p.map (·.aperture)) = some k then min 255 ((s.ap k).faultCount + 1) else (s.ap k).faultCount } := by
  cases p with
  | none => rfl
  | some x =>
    by_cases own : k = x.aperture
    · simp [addFault, own]
    · simp [addFault, own, Ne.symm own]

theorem left_ap (e : PostEntry) (k : ApId) (s : State) : (left e s).ap k =
    { s.ap k with inFlight := (s.ap k).inFlight - if (e.core.place.map (·.aperture)) = some k then 1 else 0 } :=
  lowerInFlight_ap _ _ _

theorem lost_ap (e : PostEntry) (f : Failure) (k : ApId) (s : State) : (lost e f s).ap k =
    { s.ap k with
      inFlight := (s.ap k).inFlight - if (e.core.place.map (·.aperture)) = some k then 1 else 0
      faultCount := if (e.core.place.map (·.aperture)) = some k
        then min 255 ((s.ap k).faultCount + 1) else (s.ap k).faultCount } := by
  have before : (updReq e.core.requester (fun q => { q with lossFlag := true }) (left e s)).ap k = (left e s).ap k := rfl
  rw [lost, post_ap, addFault_ap, before, left_ap]

@[simp] theorem lost_parked (e : PostEntry) (f : Failure) (s : State) : (lost e f s).parked = s.parked := by
  simp [lost, left]

theorem waitingRead_lost (e : PostEntry) (f : Failure) (s : State) : waitingRead (lost e f s) = waitingRead s :=
  waitingRead_congr (lost_slots e f s) fun o i => waitingOp_congr (by rw [lost_parked]) _

section
variable {k : ApId} {n : SlotId} {c : Slot} {s : State} (here : s.slot n = some c)
  (own : (c.core.place.map (·.aperture)) = some k)
include here own

theorem attributed_slots_pos :
    0 < ((occupied s).filter fun n => (s.slot n).elim false fun c => c.core.attributed k).length := by
  refine List.length_pos_of_mem (a := n) (List.mem_filter.mpr ⟨?_, ?_⟩)
  · exact List.mem_filter.mpr ⟨List.mem_finRange n, by rw [here]; rfl⟩
  · simp [here, OwnerCore.attributed, own]

theorem inFlight_pos (counted : inFlightCounted s) : 0 < (s.ap k).inFlight := by
  rw [(counted k).1, attributedTo]
  have := attributed_slots_pos here own
  omega

theorem inFlight_of_two {p : PostEntry} (counted : inFlightCounted s) (entries : s.postQueue = [p])
    (place : (p.core.place.map (·.aperture)) = some k) : 1 < (s.ap k).inFlight := by
  have one : (s.postQueue.filter fun e => e.core.attributed k).length = 1 := by
    simp [entries, OwnerCore.attributed, place]
  rw [(counted k).1, attributedTo, one]
  have := attributed_slots_pos here own
  omega

end

theorem not_drained_of_inFlight {k : ApId} {s : State} (some_left : 0 < (s.ap k).inFlight) : drained k s = false := by
  rw [Bool.eq_false_iff, ne_eq, drained_iff]
  omega

theorem undrained_walkOver {k : ApId} {s : State} (held : (s.ap k).state = .faulted ∨ ((s.ap k).state = .draining ∧
    inFlightCounted s ∧ ∃ n c, s.slot n = some c ∧ (c.core.place.map (·.aperture)) = some k)) (t : TagId) (u : TagState)
    (rest : List WalkRequest) : drained k (walkOver t u rest s) = false := by
  rcases held with faulted | ⟨-, counted, n, c, here, own⟩
  · rw [Bool.eq_false_iff, ne_eq, drained_iff]
    exact fun h => ApState.noConfusion (faulted.symm.trans h.1)
  · exact not_drained_of_inFlight (s := walkOver t u rest s) (inFlight_pos here own counted)

/-! ### A walk whose outcome changes nothing -/

section
variable {e : EngineId} {op : Op} {w : WalkRequest} {x : Walk} {rest : List WalkRequest} {s : State}
  (walking : Walking e op w x rest s) (entries : s.postQueue = []) (waiters : w.waiters = []) (still : waitingRead s = none)
  (running : ∀ y ∈ rest, y.walk.isSome = true) (undrained : ∀ u, drained w.aperture (walkOver (engineTag e) u rest s) = false)
include walking entries still running

theorem offerTags_walkOver (u : TagState) :
    offerTags (walkOver (engineTag e) u rest s) = walkOver (engineTag e) u rest s :=
  offerTags_of_nothingWaits ⟨walking.going, running, .inl walking.jobs, waitingWrite_of_nil entries,
    (waitingRead_congr (t := walkOver (engineTag e) u rest s) rfl fun _ _ => rfl).trans still⟩

include waiters undrained

theorem endWalk_unchanged {r : WalkOutcome} {u : TagState} (nothing : walkOutcome w r (walkOver (engineTag e) u rest s) =
    walkOver (engineTag e) u rest s) :
    offerTags (endWalk e r (setTag (engineTag e) u (unmoved s))) = walkOver (engineTag e) u rest s := by
  rw [endWalk_of_walking (walkIn_of_walking (js := s.jobs) walking), drainTest_of_not_drained (undrained u), nothing, waiters,
    reofferWith_of_no_entries (s := walkOver (engineTag e) u rest s) walking.unqueued entries (by simp),
    offerTags_walkOver walking entries still running]

end

/-- The result of a walk that a fault has dropped is not taken (R21). -/
theorem walkOutcome_of_dropped {w : WalkRequest} (dropped : w.dropped = true) (r : WalkOutcome) (s : State) :
    walkOutcome w r s = s := if_neg (by simp [currentWalk, dropped])

/-- The commands at which a walk ends, whatever it finds, in the forms the statement gives them. -/
theorem exec_of_walk_end {e : EngineId} {op : Op} {w : WalkRequest} {x : Walk} {rest : List WalkRequest} {s : State}
    {lanes : Lanes} {why : Cause} {b : Option BadEntry} {at' : Nat} {i : Instr} {u : TagState}
    (walking : Walking e op w x rest s) (wrong : FindsWrong w x (s.places w.aperture) (walkEntries op lanes) why b at')
    (runs : (i = .responseOk (engineTag e) lanes ∧ u = .free) ∨
      (∃ found m en, i = .responseOk (engineTag e) found ∧
        FindsAt w x (s.places w.aperture) (walkEntries op found) m en ∧ u = .free) ∨
      (∃ c, Fails (engineTag e) op i c u s)) :
    ∃ r, exec i s = .next (offerTags (endWalk e r (setTag (engineTag e) u (unmoved s)))) := by
  have walkIn := walkIn_of_walking (js := s.jobs) walking
  rcases runs with ⟨rfl, rfl⟩ | ⟨found, m, en, rfl, finds, rfl⟩ | ⟨c, fails⟩
  · exact ⟨_, (exec_ok_of_walking walkIn lanes).trans (next_congr (congrArg offerTags
      (walkLine_of_finding (f := { cause := why, sub := b, index := at' }) walkIn (examine_of_findsWrong wrong))))⟩
  · exact ⟨_, (exec_ok_of_walking walkIn found).trans (next_congr (congrArg offerTags
      (walkLine_of_found walkIn (examine_of_findsAt finds))))⟩
  · obtain ⟨-, m, r, -, runs⟩ := exec_of_fails walking.up walking.tag walking.live fails
    refine ⟨.readFailed m (engineTag e), runs.trans (next_congr (congrArg offerTags ?_))⟩
    rw [opFailed, show ({ op with retries := r } : Op).owner = some (.walk e) from walking.owner]
    rfl

/-! ### A finding of a DRAINING aperture -/

section
variable {e : EngineId} {op : Op} {w : WalkRequest} {x : Walk} {rest : List WalkRequest} {s : State} {f : Finding}
  (current : CurrentWalk e op w x rest s) (draining : (s.ap w.aperture).state = .draining)
include current draining

theorem walkOutcome_of_draining (t : TagId) (u : TagState) : walkOutcome w (.finding f) (walkOver t u rest s) =
    failWaiters (w.waiters.map (·.1)) (findingFailure f) (walkOver t u rest s) := by
  rw [walkOutcome, if_pos (currentWalk_walkOver current.kept current.current (by rw [draining]; rfl) t u rest)]
  exact if_pos (beq_iff_eq.mpr draining)

end

theorem noOps_congr {o : OwnerRef} {s t : State} (tags : t.tags = s.tags) (parked : t.parked = s.parked)
    (no_ops : NoOps o s) : NoOps o t :=
  ⟨fun v op j out => no_ops.1 v op j ((tag_congr tags v).symm.trans out), fun z mem => no_ops.2 z (parked ▸ mem)⟩

theorem noOps_of_freed {o : OwnerRef} {t : TagId} {rest : List WalkRequest} {s : State} (no_ops : NoOps o s) :
    NoOps o (walkOver t .free rest s) := by
  refine ⟨fun v op' j out => ?_, no_ops.2⟩
  have here : (if v = t then .free else s.tag v) = TagState.outstanding op' := (setTag_tag _ _ _ _).symm.trans out
  by_cases same : v = t
  · cases (if_pos same).symm.trans here
  · exact no_ops.1 v op' j ((if_neg same).symm.trans here)

/-- No waiter of the requests is the owner. -/
theorem detach_of_unattached {o : OwnerRef} {s : State} (unqueued : s.unqueued = [])
    (running : ∀ y ∈ s.missQueue, y.walk.isSome = true) (elsewhere : ∀ v ∈ s.missQueue, ∀ u ∈ v.waiters, u.1 ≠ o) :
    detach o s = s := by
  have kept : ((s.missQueue.map fun w => { w with waiters := w.waiters.filter fun x => !(x.1 == o) }).filter
      fun w => w.walk.isSome || !w.waiters.isEmpty) = s.missQueue := by
    have same : (s.missQueue.map fun w => { w with waiters := w.waiters.filter fun x => !(x.1 == o) }) = s.missQueue :=
      (List.map_congr_left fun v mem => by
        rw [List.filter_eq_self.mpr fun u here => by simpa using elsewhere v mem u here]
        rfl).trans (List.map_id _)
    rw [same]
    exact List.filter_eq_self.mpr fun y mem => by simp [running y mem]
  rw [detach, kept, unqueued, List.filter_nil, ← unqueued]

/-- A finding of a DRAINING aperture, with no waiter: nothing changes but the walk's end. -/
theorem exec_finding_draining_alone {e : EngineId} {op : Op} {w : WalkRequest} {x : Walk} {rest : List WalkRequest}
    {lanes : Lanes} {f : Finding} {s : State} (current : CurrentWalk e op w x rest s)
    (draining : (s.ap w.aperture).state = .draining) (counted : inFlightCounted s) (still : waitingRead s = none)
    (slot : ∃ n c, s.slot n = some c ∧ (c.core.place.map (·.aperture)) = some w.aperture)
    (running : ∀ y ∈ rest, y.walk.isSome = true)
    (wrong : FindsWrong w x (s.places w.aperture) (walkEntries op lanes) f.cause f.sub f.index)
    (entries : s.postQueue = []) (waiters : w.waiters = []) :
    exec (.responseOk (engineTag e) lanes) s = .next (walkOver (engineTag e) .free rest s) := by
  have walking := current.toWalking
  have walkIn := walkIn_of_walking (js := s.jobs) walking
  have nothing : walkOutcome w (.finding f) (walkOver (engineTag e) .free rest s) = walkOver (engineTag e) .free rest s := by
    rw [walkOutcome_of_draining current draining, waiters]
    exact sweep_of_idle entries fun _ _ => rfl
  rw [exec_ok_of_walking walkIn, walkLine_of_finding walkIn (examine_of_findsWrong wrong),
    endWalk_unchanged walking entries waiters still running (fun u => undrained_walkOver (.inr ⟨draining, counted, slot⟩) _ u _)
      nothing]

/-- A finding of a DRAINING aperture, with a waiting write: it is lost with the finding (R69). -/
theorem exec_finding_draining_waiter {e : EngineId} {op : Op} {w : WalkRequest} {x : Walk} {rest : List WalkRequest}
    {lanes : Lanes} {f : Finding} {p : PostEntry} {g : Progress} {y : Place} {i : Nat} {s : State}
    (current : CurrentWalk e op w x rest s)
    (draining : (s.ap w.aperture).state = .draining) (counted : inFlightCounted s) (still : waitingRead s = none)
    (slot : ∃ n c, s.slot n = some c ∧ (c.core.place.map (·.aperture)) = some w.aperture)
    (running : ∀ y ∈ rest, y.walk.isSome = true)
    (wrong : FindsWrong w x (s.places w.aperture) (walkEntries op lanes) f.cause f.sub f.index)
    (entries : s.postQueue = [p]) (translating : Translating p g y) (place : y.aperture = w.aperture)
    (waiters : w.waiters = [(p.ref, i)]) (no_ops : NoOps p.ref s) (met : FencesMet s)
    (elsewhere : ∀ v ∈ rest, ∀ u ∈ v.waiters, u.1 ≠ p.ref) :
    exec (.responseOk (engineTag e) lanes) s = .next (lost p
      { failureOn f.cause g y with sub := f.sub, extentIndex := some f.index } (walkOver (engineTag e) .free rest s)) := by
  let gone : State := walkOver (engineTag e) .free rest s
  have own : (p.core.place.map (·.aperture)) = some w.aperture := by rw [translating.place, ← place]; rfl
  have no_ops' : NoOps p.ref gone := noOps_of_freed no_ops
  have failure : findingFailure f p.core = { failureOn f.cause g y with sub := f.sub, extentIndex := some f.index } := by
    rw [findingFailure, failureOf_of_translating translating]
  have undrained (h : Failure) : drainTestOf p.core.place (lost p h gone) = lost p h gone := by
    rw [translating.place]
    refine drainTest_of_not_drained (not_drained_of_inFlight ?_)
    rw [place, lost_ap, if_pos own]
    obtain ⟨n, c, here, of_slot⟩ := slot
    exact Nat.sub_pos_of_lt (inFlight_of_two here of_slot counted entries own)
  have outcome : walkOutcome w (.finding f) gone = lost p (findingFailure f p.core) gone := by
    rw [walkOutcome_of_draining current draining, waiters]
    refine (sweep_of_entry_among_slots (s := gone) entries fun n t => if_neg (by simp [PostEntry.ref])).trans ?_
    rw [if_pos (by simp), ownerCore_of_single (s := gone) entries]
    exact failTranslation_loses_among_slots (s := gone) entries translating no_ops'
      (detach_of_unattached (s := gone) current.unqueued running elsewhere) met _ (undrained _)
  have ends : offerTags (lost p (findingFailure f p.core) gone) = lost p (findingFailure f p.core) gone :=
    offerTags_of_nothingWaits ⟨(lost_quiescing _ _ _).trans current.going,
      fun z mem => running z (by rwa [lost_missQueue] at mem), .inl ((lost_jobs _ _ _).trans current.jobs),
      waitingWrite_of_nil (lost_postQueue _ _ _), (waitingRead_lost _ _ _).trans
        ((waitingRead_congr (t := gone) rfl fun _ _ => rfl).trans still)⟩
  have drain : drainTest w.aperture gone = gone :=
    drainTest_of_not_drained (undrained_walkOver (.inr ⟨draining, counted, slot⟩) _ _ _)
  rw [exec_finding (walkIn_of_walking (js := s.jobs) current.toWalking) wrong, drain, outcome, waiters,
    reofferWith_of_no_entries ((lost_unqueued _ _ gone).trans current.unqueued) (lost_postQueue _ _ _)
      (by simp [PostEntry.ref]), ends, failure]

end Sys2Proof.Machine
end

section
/-! SUPPORT. The withdrawal of owners that are not fully translated (R22). -/

namespace Sys2Proof.Machine

open Sys2Proof.Claims

/-! ### A write is withdrawn -/

/-- The write whose translation is discarded (R22): its pieces without their targets. -/
def discardedEntry (p : PostEntry) : PostEntry :=
  { p with core := { p.core with pieces := p.core.pieces.map Piece.untranslate } }

/-- The write that is withdrawn: FAILED, its pieces ENDED without their targets. -/
def withdrawnEntry (p : PostEntry) (f : Failure) : PostEntry := stoppedEntry (discardedEntry p) f

theorem withdrawnEntry_eq (p : PostEntry) (f : Failure) : withdrawnEntry p f = { p with
    state := .failed
    core := { p.core with
      progress := none, failure := some f
      pieces := p.core.pieces.map fun q => { q with state := .ended, target := none, generation := none } } } := by
  have pieces : (p.core.pieces.map Piece.untranslate).map (fun q => { q with state := .ended }) =
      p.core.pieces.map fun q => { q with state := .ended, target := none, generation := none } := List.map_map
  rw [← pieces]
  rfl

theorem translating_discarded {p : PostEntry} {g : Progress} {y : Place} (h : Translating p g y) :
    Translating (discardedEntry p) g y :=
  ⟨h.state, h.progress, h.generation, h.place, fun z mem => by
    obtain ⟨q, member, rfl⟩ := List.mem_map.mp mem
    exact h.pieces q member, h.mark⟩

theorem withdraw_of_last {before : List PostEntry} {p : PostEntry} {g : Progress} {y : Place} {s : State}
    (entries : s.postQueue = before ++ [p]) (others : ∀ e ∈ before, e.named p.core.requester p.sequence = false)
    (translating : Translating p g y) (no_ops : NoOps p.ref s) (misses : s.missQueue = []) (unqueued : s.unqueued = []) :
    withdraw p.ref s = setPostQueue (before ++ [withdrawnEntry p (failureOn .withdrawn g y)]) s := by
  have unfolded : withdraw p.ref s = failOwner (discardedEntry p).ref (failureOn .withdrawn g y)
      (detach p.ref (setPostQueue (before ++ [discardedEntry p]) s)) := by
    rw [withdraw, ownerCore_of_last entries others]
    simp only [failureOf_of_translating translating]
    refine congrArg (failTranslation p.ref (failureOn .withdrawn g y)) ?_
    exact (if_pos rfl).trans (updCore_of_last entries others _)
  rw [unfolded, detach_of_nil (s := setPostQueue (before ++ [discardedEntry p]) s) misses unqueued]
  exact failOwner_of_last (p := discardedEntry p) (s := setPostQueue (before ++ [discardedEntry p]) s) rfl others
    (translating_discarded translating) no_ops _

/-- The only entry is withdrawn and leaves lost. -/
theorem withdraw_loses {p : PostEntry} {g : Progress} {y : Place} {s : State} (entries : s.postQueue = [p])
    (translating : Translating p g y) (no_ops : NoOps p.ref s) (misses : s.missQueue = []) (unqueued : s.unqueued = [])
    (met : FencesMet s) (undrained : (s.ap y.aperture).state ≠ .draining) :
    leaveTurn p.ref (withdraw p.ref s) = lost p (failureOn .withdrawn g y) s := by
  let f := failureOn .withdrawn g y
  let d := withdrawnEntry p f
  have alone : without d (setPostQueue [d] s) = [] := without_of_single rfl
  have still : drainTestOf d.core.place (setPostQueue [] (lost d f (setPostQueue [d] s))) =
      setPostQueue [] (lost d f (setPostQueue [d] s)) := by
    refine drainTestOf_of_not_draining fun x at_x => ?_
    have same : x = y := Option.some.inj (at_x.symm.trans translating.place)
    rw [same]
    exact fun h => undrained ((lost_ap_state d f y.aperture s).symm.trans h)
  have gone := leave_loses (e := d) (f := f) (s := setPostQueue [d] s) translating.mark met rfl rfl (alone.symm ▸ still)
  rw [withdraw_of_last (before := []) entries (by simp) translating no_ops misses unqueued]
  refine (leaveTurn_of_head (p := d) rfl).trans ?_
  refine (leaveHead_of_working (p := d) rfl EntryState.noConfusion).trans ?_
  refine (if_pos (stoppedEntry_mayLeave (discardedEntry p) f)).trans (gone.trans ?_)
  rw [alone]
  exact setPostQueue_nil_lost p f s

/-! ### A slot is withdrawn -/

/-- The slot that is withdrawn, its READ_FAILED posted and its aperture's fault count raised. -/
def slotWithdrawn (n : SlotId) (c : Slot) (f : Failure) (s : State) : State :=
  addFault c.core.place (post (readFailed c.core f) (setSlot n (some (failedSlot
    { c with core := { c.core with progress := none } } f (c.core.pieces.map fun q => { q with state := .ended }) s)) s))

theorem withdraw_of_slot {n : SlotId} {c : Slot} {h : Progress} {z : Place} {s : State} (here : s.slot n = some c)
    (progress : c.core.progress = some h) (generation : c.core.generation = none) (place : c.core.place = some z)
    (pieces : ∀ q ∈ c.core.pieces, q.state = .pending) (mark : c.core.settlingMark = false) (no_ops : NoOps (.slot n) s)
    (misses : s.missQueue = []) (unqueued : s.unqueued = []) :
    withdraw (.slot n) s = slotWithdrawn n c (failureOn .withdrawn h z) s := by
  have failure : c.core.failureOf .withdrawn = failureOn .withdrawn h z := by
    simp [OwnerCore.failureOf, OwnerCore.reportGeneration, generation, progress, place, failureOn]
  have unfolded : withdraw (.slot n) s = failOwner (.slot n) (failureOn .withdrawn h z) (detach (.slot n) s) := by
    rw [withdraw, ownerCore_of_slot here]
    simp only [failure]
    rfl
  rw [unfolded, detach_of_nil misses unqueued, failOwner_of_slot here mark, map_atFailure_of_pending pieces,
    cancelOps_of_noOps no_ops]
  rfl

/-! ### The withdrawal of every owner -/

theorem detachAll_of_queued {k : ApId} (os : List OwnerRef) {s : State} (unqueued : s.unqueued = [])
    (queued : ∀ y ∈ s.missQueue, y.walk = none ∧ y.aperture = k) :
    ∃ m, detachAll os s = { s with missQueue := m } ∧ ∀ y ∈ m, y.walk = none ∧ y.aperture = k := by
  induction os generalizing s with
  | nil => exact ⟨s.missQueue, rfl, queued⟩
  | cons o os ih =>
    let m := (s.missQueue.map fun w => { w with waiters := w.waiters.filter fun x => !(x.1 == o) }).filter
      fun w => w.walk.isSome || !w.waiters.isEmpty
    have first : detach o s = { s with missQueue := m } := by
      rw [detach, unqueued, List.filter_nil, ← unqueued]
    have queued' : ∀ y ∈ m, y.walk = none ∧ y.aperture = k := fun y mem => by
      obtain ⟨v, member, rfl⟩ := List.mem_map.mp (List.mem_of_mem_filter mem)
      exact queued v member
    obtain ⟨m', shape, rest⟩ := ih (s := { s with missQueue := m }) unqueued queued'
    exact ⟨m', (congrArg (detachAll os) first).trans shape, rest⟩

/-- The aperture's requests all QUEUED and every other gone, the owners are withdrawn in age order. -/
theorem withdrawAll_eq_sweep {k : ApId} {s : State} (unqueued : s.unqueued = [])
    (queued : ∀ y ∈ s.missQueue, y.walk = none ∧ y.aperture = k) : withdrawAll k s =
    sweep (fun o t => if (untranslatedOwners k s).contains o then withdraw o t else t) { s with missQueue := [] } := by
  obtain ⟨m, shape, rest⟩ := detachAll_of_queued (untranslatedOwners k s) unqueued queued
  have none : m.filter (fun w => w.walk.isSome || !(w.aperture == k)) = [] :=
    List.filter_eq_nil_iff.mpr fun y mem => by simp [rest y mem]
  rw [withdrawAll, shape]
  simp only [none]

theorem owners_of_two {a b : OwnerRef} {s : State} (two : s.postQueue.map PostEntry.ref ++ (occupied s).map OwnerRef.slot = [a, b]) :
    owners s = if ageOf b s < ageOf a s then [b, a] else [a, b] := by
  rw [owners, two]
  rfl

theorem sweep_of_two {act : OwnerRef → State → State} {a b : OwnerRef} {s : State}
    (two : s.postQueue.map PostEntry.ref ++ (occupied s).map OwnerRef.slot = [a, b]) : sweep act s =
    if ageOf b s < ageOf a s then leaveTurn a (act a (leaveTurn b (act b s)))
    else leaveTurn b (act b (leaveTurn a (act a s))) := by
  rw [sweep, owners_of_two two, apply_ite (List.foldl (fun s o => leaveTurn o (act o s)) s)]
  rfl

end Sys2Proof.Machine
end

section
/-! SUPPORT. A write that is withdrawn behind another of its requester (R22, R99), and a write and a read that are withdrawn
in one event. -/

namespace Sys2Proof.Machine

open Sys2Proof.Claims

/-! ### What does nothing -/

theorem waitingWrite_of_none_of_pieces {s : State}
    (still : ∀ e ∈ s.postQueue, ∀ q ∈ e.core.pieces, pieceWaits e.ref s q = false) : waitingWrite s = none := by
  refine List.findSome?_eq_none_iff.mpr fun e mem => ?_
  have none : e.core.pieces.find? (pieceWaits e.ref s) = none :=
    List.find?_eq_none.mpr fun q member => by simp [still e mem q member]
  rw [none, Option.map_none, ite_self]

theorem lookUp_of_no_progress {o : OwnerRef} {c : OwnerCore} {s : State} (here : ownerCore o s = some c)
    (ended : c.progress = none) : lookUp o s = s := by
  rw [lookUp, lookupPieces, here]
  simp only [ended]
  cases c.place <;> rfl

/-- While its requester's head is ISSUED no entry leaves. -/
theorem leaveTurn_behind_issued {a : PostEntry} {q : List PostEntry} {s : State} (entries : s.postQueue = a :: q)
    (issued : a.state = .issued) (j : Seq) : leaveTurn (.entry a.core.requester j) s = s := by
  have first : head a.core.requester s = some a := by rw [head, entries, List.find?_cons_of_pos (by simp)]
  have still : makeEligible a.core.requester s = s := by
    rw [makeEligible, first]
    exact if_neg (by simp [issued])
  have stays : a.mayLeave = false := mayLeave_eq_false (by simp [issued]) (by simp [issued])
  have unmoved_head : leaveHead a.core.requester s = s := by
    rw [leaveHead, still, first]
    exact if_neg (by simp [stays])
  rw [leaveTurn, first]
  simp only [unmoved_head, ite_self]

/-! ### A write behind another of its requester -/

/-- An entry behind a head in flight of its requester does not leave. -/
theorem leaveTurn_of_behind {a p : PostEntry} {q : List PostEntry} {s : State} (entries : s.postQueue = a :: q)
    (issued : a.state = .issued) (same : a.core.requester = p.core.requester) : leaveTurn p.ref s = s := by
  have turn := leaveTurn_behind_issued entries issued p.sequence
  rwa [same] at turn

theorem ownerCore_of_first {a : PostEntry} {q : List PostEntry} {s : State} (entries : s.postQueue = a :: q) :
    ownerCore a.ref s = some a.core := by
  simp [ownerCore, PostEntry.ref, findEntry, entries, PostEntry.named]

theorem not_named_of_behind {p p' : PostEntry} (behind : p'.sequence ≠ p.sequence) :
    ∀ e ∈ [p'], e.named p.core.requester p.sequence = false := by
  simp [PostEntry.named, behind]

section
variable {k : ApId} {p p' : PostEntry} {g : Progress} {y : Place} {s : State} (entries : s.postQueue = [p', p])
  (behind : p'.sequence ≠ p.sequence)
include entries behind

section
variable (translating : Translating p g y) (ended : p'.core.progress = none)
include translating ended

theorem untranslatedOwners_behind (empty : ∀ n : SlotId, s.slot n = none) :
    p'.ref ∉ untranslatedOwners k s ∧ (y.aperture = k → p.ref ∈ untranslatedOwners k s) := by
  constructor
  · intro mem
    have h := (List.mem_filter.mp mem).2
    simp [untranslated, ownerCore_of_first entries, ended] at h
  · intro place
    refine List.mem_filter.mpr ⟨(owners_perm s).mem_iff.mpr ?_, ?_⟩
    · simp [entries, occupied_of_empty empty]
    · rw [untranslated, ownerCore_of_last (before := [p']) entries (not_named_of_behind behind)]
      simp [OwnerCore.attributed, translating.place, translating.progress, place]

/-- The write behind is withdrawn; its requester's head, in flight, keeps it in the post queue. -/
theorem withdrawAll_behind (same : p'.core.requester = p.core.requester) (place : y.aperture = k) (issued : p'.state = .issued) (no_ops : NoOps p.ref s)
    (misses : s.missQueue = []) (unqueued : s.unqueued = []) (empty : ∀ n : SlotId, s.slot n = none) :
    withdrawAll k s = setPostQueue [p', withdrawnEntry p (failureOn .withdrawn g y)] s := by
  obtain ⟨kept, taken⟩ := untranslatedOwners_behind (k := k) entries behind translating ended empty
  have two : s.postQueue.map PostEntry.ref ++ (occupied s).map OwnerRef.slot = [p'.ref, p.ref] := by
    rw [entries, occupied_of_empty empty]
    rfl
  have cleared : { s with missQueue := [] } = s := by rw [← misses]
  have act : (if (untranslatedOwners k s).contains p.ref then withdraw p.ref s else s) =
      setPostQueue [p', withdrawnEntry p (failureOn .withdrawn g y)] s := by
    rw [if_pos (List.contains_iff_mem.mpr (taken place))]
    exact withdraw_of_last (before := [p']) entries (not_named_of_behind behind) translating no_ops misses
      unqueued
  have keep (t : State) : (if (untranslatedOwners k s).contains p'.ref then withdraw p'.ref t else t) = t :=
    if_neg (by simpa using kept)
  have turn' {q : List PostEntry} {t : State} (queue : t.postQueue = p' :: q) : leaveTurn p'.ref t = t :=
    leaveTurn_behind_issued queue issued _
  rw [withdrawAll_eq_sweep unqueued (by simp [misses]), cleared, sweep_of_two two, act, keep, keep, turn' entries, act]
  have after : leaveTurn p.ref (setPostQueue [p', withdrawnEntry p (failureOn .withdrawn g y)] s) =
      setPostQueue [p', withdrawnEntry p (failureOn .withdrawn g y)] s := leaveTurn_of_behind (a := p') rfl issued same
  rw [after, turn' (t := setPostQueue [p', withdrawnEntry p (failureOn .withdrawn g y)] s) rfl, ite_self]

end

end

/-! ### The end of the event -/

section
variable {p' d : PostEntry} {s : State} (entries : s.postQueue = [p', d])
  (same : p'.core.requester = d.core.requester) (behind : p'.sequence ≠ d.sequence) (issued : p'.state = .issued)
include entries same behind issued

theorem reofferWith_behind (ended : d.core.progress = none) (unqueued : s.unqueued = [])
    (empty : ∀ n : SlotId, s.slot n = none) : reofferWith [d.ref] [] s = s := by
  have cleared : { s with unqueued := [] } = s := by rw [← unqueued]
  have look : lookUp d.ref s = s := lookUp_of_no_progress
    (ownerCore_of_last (before := [p']) entries (not_named_of_behind behind)) ended
  have other : p'.ref ≠ d.ref := fun h => behind (OwnerRef.entry.inj h).2
  rw [reofferWith, cleared, unqueued]
  refine sweep_of_no_turns fun o mem => ?_
  have two : o = p'.ref ∨ o = d.ref := by
    simpa [entries, occupied_of_empty empty] using (owners_perm s).mem_iff.mp mem
  rcases two with rfl | rfl
  · simp only [List.contains_nil, List.map_nil, List.nil_append, if_neg Bool.false_ne_true]
    rw [if_neg (by simpa using other)]
    exact leaveTurn_behind_issued entries issued _
  · simp only [List.contains_nil, List.map_nil, List.nil_append, if_neg Bool.false_ne_true]
    rw [if_pos (by simp), look]
    exact leaveTurn_of_behind entries issued same

end

theorem offerTags_of_still_pieces {s : State} (going : s.quiescing = false) (misses : s.missQueue = []) (jobs : s.jobs = [])
    (empty : ∀ n : SlotId, s.slot n = none) (still : ∀ e ∈ s.postQueue, ∀ q ∈ e.core.pieces, pieceWaits e.ref s q = false) :
    offerTags s = s :=
  offerTags_of_nothingWaits ⟨going, noneQueued_of_nil misses, .inl jobs, waitingWrite_of_none_of_pieces still,
    waitingRead_of_empty empty⟩

end Sys2Proof.Machine
end

section
/-! SUPPORT. A write and a read of one aperture withdrawn in one event (R22). -/

namespace Sys2Proof.Machine

open Sys2Proof.Claims

/-! ### What a lost write and a withdrawn slot change -/

section
variable (e : PostEntry) (f : Failure) (s : State)

@[simp] theorem lost_tags : (lost e f s).tags = s.tags := by simp [lost, left]
@[simp] theorem lost_cache : (lost e f s).cache = s.cache := by simp [lost, left]
@[simp] theorem lost_settings : (lost e f s).settings = s.settings := by simp [lost, left]
@[simp] theorem lost_response : (lost e f s).response = s.response := by simp [lost, left]
@[simp] theorem lost_validation : (lost e f s).validation = s.validation := by simp [lost, left]
@[simp] theorem lost_tickCounter : (lost e f s).tickCounter = s.tickCounter := by simp [lost, left]
@[simp] theorem lost_pending : (lost e f s).pending = s.pending := by simp [lost, left]
@[simp] theorem lost_resetLow : (lost e f s).resetLow = s.resetLow := by simp [lost, left]

theorem lost_req (r : ReqId) : (lost e f s).req r = if r = e.core.requester then
    { s.req r with
      lossFlag := true, completed := e.sequence, queuedWrites := (s.req r).queuedWrites - 1
      mark := if (s.req r).mark = some (e.sequence, false) then some (e.sequence, true) else (s.req r).mark }
    else s.req r := by
  have base (r : ReqId) : (left e s).req r = if r = e.core.requester then
      { s.req r with
        completed := e.sequence, queuedWrites := (s.req r).queuedWrites - 1
        mark := if (s.req r).mark = some (e.sequence, false) then some (e.sequence, true) else (s.req r).mark }
      else s.req r := by
    rw [left, req_congr (lowerInFlight_requesters _ _), updReq_req]
    by_cases own : r = e.core.requester
    · rw [if_pos own, if_pos own, own]
      rfl
    · rw [if_neg own, if_neg own]
      rfl
  rw [lost, req_congr (post_requesters _ _), req_congr (addFault_requesters _ _), updReq_req]
  by_cases own : r = e.core.requester
  · rw [if_pos own, if_pos own, ← own, base, if_pos own]
  · rw [if_neg own, if_neg own, base, if_neg own]

end

section
variable (n : SlotId) (c : Slot) (f : Failure) (s : State)

@[simp] theorem slotWithdrawn_tags : (slotWithdrawn n c f s).tags = s.tags := by simp [slotWithdrawn]
@[simp] theorem slotWithdrawn_parked : (slotWithdrawn n c f s).parked = s.parked := by simp [slotWithdrawn]
@[simp] theorem slotWithdrawn_cache : (slotWithdrawn n c f s).cache = s.cache := by simp [slotWithdrawn]
@[simp] theorem slotWithdrawn_settings : (slotWithdrawn n c f s).settings = s.settings := by simp [slotWithdrawn]
@[simp] theorem slotWithdrawn_response : (slotWithdrawn n c f s).response = s.response := by simp [slotWithdrawn]
@[simp] theorem slotWithdrawn_jobs : (slotWithdrawn n c f s).jobs = s.jobs := by simp [slotWithdrawn]
@[simp] theorem slotWithdrawn_validation : (slotWithdrawn n c f s).validation = s.validation := by simp [slotWithdrawn]
@[simp] theorem slotWithdrawn_tickCounter : (slotWithdrawn n c f s).tickCounter = s.tickCounter := by simp [slotWithdrawn]
@[simp] theorem slotWithdrawn_pending : (slotWithdrawn n c f s).pending = s.pending := by simp [slotWithdrawn]
@[simp] theorem slotWithdrawn_resetLow : (slotWithdrawn n c f s).resetLow = s.resetLow := by simp [slotWithdrawn]
@[simp] theorem slotWithdrawn_quiescing : (slotWithdrawn n c f s).quiescing = s.quiescing := by simp [slotWithdrawn]
@[simp] theorem slotWithdrawn_postQueue : (slotWithdrawn n c f s).postQueue = s.postQueue := by simp [slotWithdrawn]
@[simp] theorem slotWithdrawn_missQueue : (slotWithdrawn n c f s).missQueue = s.missQueue := by simp [slotWithdrawn]
@[simp] theorem slotWithdrawn_unqueued : (slotWithdrawn n c f s).unqueued = s.unqueued := by simp [slotWithdrawn]
@[simp] theorem slotWithdrawn_requesters : (slotWithdrawn n c f s).requesters = s.requesters := by simp [slotWithdrawn]

theorem slotWithdrawn_slot (m : SlotId) : (slotWithdrawn n c f s).slot m = if m = n then
    some (failedSlot { c with core := { c.core with progress := none } } f
      (c.core.pieces.map fun q => { q with state := .ended }) s)
    else s.slot m :=
  ((slot_congr (addFault_slots _ _) m).trans (slot_congr (post_slots _ _) m)).trans (setSlot_slot _ _ _ _)

theorem slotWithdrawn_ap (k : ApId) : (slotWithdrawn n c f s).ap k =
    { s.ap k with faultCount :=
        if (c.core.place.map (·.aperture)) = some k then min 255 ((s.ap k).faultCount + 1) else (s.ap k).faultCount } := by
  rw [slotWithdrawn, addFault_ap, post_ap]
  rfl

theorem slotWithdrawn_reports (room : s.reports.length < 16) :
    (slotWithdrawn n c f s).reports = s.reports ++ [readFailed c.core f] :=
  (addFault_reports _ _).trans (congrArg State.reports (post_of_room (s := setSlot n _ s) _ room))

end

theorem lost_reports (e : PostEntry) (f : Failure) (s : State) (room : s.reports.length < 16) :
    (lost e f s).reports = s.reports ++ [writeLostReport e f] := by
  have same : (addFault e.core.place (updReq e.core.requester (fun q => { q with lossFlag := true }) (left e s))).reports =
      s.reports := by simp [left]
  refine (congrArg State.reports (post_of_room (writeLostReport e f) (same ▸ room))).trans ?_
  rw [← same]

section
variable (p : PostEntry) (f : Failure) (n : SlotId) (c : Slot) (f' : Failure) (s : State) (room : s.reports.length < 15)
include room

theorem lost_slotWithdrawn_reports : (lost p f (slotWithdrawn n c f' s)).reports =
    s.reports ++ [readFailed c.core f', writeLostReport p f] := by
  have first := slotWithdrawn_reports n c f' s (by omega)
  rw [lost_reports p f _ (by rw [first, List.length_append]; exact Nat.succ_lt_succ room), first, List.append_assoc]
  rfl

theorem slotWithdrawn_lost_reports : (slotWithdrawn n c f' (lost p f s)).reports =
    s.reports ++ [writeLostReport p f, readFailed c.core f'] := by
  have first := lost_reports p f s (by omega)
  rw [slotWithdrawn_reports n c f' _ (by rw [first, List.length_append]; exact Nat.succ_lt_succ room), first,
    List.append_assoc]
  rfl

end

/-! ### Both owners -/

/-- What a write and a read of one aperture leave when both are withdrawn, in either order. -/
structure BothWithdrawn (p : PostEntry) (n : SlotId) (c : Slot) (f f' : Failure) (s t : State) : Prop where
  order : t = lost p f (slotWithdrawn n c f' s) ∨ t = slotWithdrawn n c f' (lost p f s)

section
variable {p : PostEntry} {n : SlotId} {c : Slot} {f f' : Failure} {s t : State} (h : BothWithdrawn p n c f f' s t)
include h

theorem BothWithdrawn.entries : t.postQueue = [] := by rcases h.order with rfl | rfl <;> simp
theorem BothWithdrawn.misses : t.missQueue = s.missQueue := by rcases h.order with rfl | rfl <;> simp
theorem BothWithdrawn.unqueued : t.unqueued = s.unqueued := by rcases h.order with rfl | rfl <;> simp
theorem BothWithdrawn.tags : t.tags = s.tags := by rcases h.order with rfl | rfl <;> simp
theorem BothWithdrawn.cache : t.cache = s.cache := by rcases h.order with rfl | rfl <;> simp

theorem BothWithdrawn.untouched : Untouched s t := by
  rcases h.order with rfl | rfl <;> constructor <;> simp

theorem BothWithdrawn.slot (m : SlotId) : t.slot m = if m = n then
    some (failedSlot { c with core := { c.core with progress := none } } f'
      (c.core.pieces.map fun q => { q with state := .ended }) s)
    else s.slot m := by
  rcases h.order with rfl | rfl
  · rw [slot_congr (lost_slots _ _ _), slotWithdrawn_slot]
  · rw [slotWithdrawn_slot, slot_congr (lost_slots _ _ _), failedSlot, lost_settings, failedSlot]

theorem BothWithdrawn.req (r : ReqId) : t.req r = if r = p.core.requester then
    { s.req r with
      lossFlag := true, completed := p.sequence, queuedWrites := (s.req r).queuedWrites - 1
      mark := if (s.req r).mark = some (p.sequence, false) then some (p.sequence, true) else (s.req r).mark }
    else s.req r := by
  rcases h.order with rfl | rfl
  · rw [lost_req, req_congr (slotWithdrawn_requesters _ _ _ _)]
  · rw [req_congr (slotWithdrawn_requesters _ _ _ _), lost_req]

theorem BothWithdrawn.ap_other {a : ApId} (write : (p.core.place.map (·.aperture)) ≠ some a)
    (read : (c.core.place.map (·.aperture)) ≠ some a) : t.ap a = s.ap a := by
  rcases h.order with rfl | rfl
  · rw [lost_ap, slotWithdrawn_ap, if_neg write, if_neg write, if_neg read]
    rfl
  · rw [slotWithdrawn_ap, lost_ap, if_neg write, if_neg write, if_neg read]
    rfl

theorem BothWithdrawn.ap_own {k : ApId} (write : (p.core.place.map (·.aperture)) = some k)
    (read : (c.core.place.map (·.aperture)) = some k) : t.ap k =
    { s.ap k with inFlight := (s.ap k).inFlight - 1, faultCount := min 255 ((s.ap k).faultCount + 2) } := by
  have twice : min 255 (min 255 ((s.ap k).faultCount + 1) + 1) = min 255 ((s.ap k).faultCount + 2) := by omega
  rcases h.order with rfl | rfl
  · rw [lost_ap, slotWithdrawn_ap, if_pos write, if_pos write, if_pos read]
    simp only [twice]
  · rw [slotWithdrawn_ap, lost_ap, if_pos write, if_pos write, if_pos read]
    simp only [twice]

end

section
variable {k : ApId} {p : PostEntry} {g : Progress} {y : Place} {n : SlotId} {c : Slot} {h : Progress} {z : Place} {s : State}
  (entries : s.postQueue = [p]) (translating : Translating p g y) (place : y.aperture = k) (no_ops : NoOps p.ref s)
  (here : s.slot n = some c) (others : ∀ m, m ≠ n → s.slot m = none) (met : c.fenceMet = true)
  (progress : c.core.progress = some h) (generation : c.core.generation = none) (place' : c.core.place = some z)
  (own : z.aperture = k) (pieces : ∀ q ∈ c.core.pieces, q.state = .pending) (mark : c.core.settlingMark = false)
  (no_ops' : NoOps (.slot n) s) (unqueued : s.unqueued = []) (undrained : (s.ap k).state ≠ .draining)
include entries translating place no_ops here others met progress generation place' own pieces mark no_ops' unqueued undrained

/-- Both are withdrawn, the older first. -/
theorem withdrawAll_both (queued : ∀ v ∈ s.missQueue, v.walk = none ∧ v.aperture = k) : withdrawAll k s =
    if c.core.age < p.core.age
    then lost p (failureOn .withdrawn g y) (slotWithdrawn n c (failureOn .withdrawn h z) { s with missQueue := [] })
    else slotWithdrawn n c (failureOn .withdrawn h z) (lost p (failureOn .withdrawn g y) { s with missQueue := [] }) := by
  let u : State := { s with missQueue := [] }
  have two : s.postQueue.map PostEntry.ref ++ (occupied s).map OwnerRef.slot = [p.ref, .slot n] := by
    rw [entries, occupied_of_single here others]
    rfl
  have write_taken : (untranslatedOwners k s).contains p.ref = true := by
    refine List.contains_iff_mem.mpr (List.mem_filter.mpr ⟨(owners_perm s).mem_iff.mpr (by simp [two]), ?_⟩)
    rw [untranslated, ownerCore_of_single entries]
    simp [OwnerCore.attributed, translating.place, translating.progress, place]
  have read_taken : (untranslatedOwners k s).contains (.slot n) = true := by
    refine List.contains_iff_mem.mpr (List.mem_filter.mpr ⟨(owners_perm s).mem_iff.mpr (by simp [two]), ?_⟩)
    rw [untranslated, ownerCore_of_slot here]
    simp [OwnerCore.attributed, place', progress, own]
  have ages : ageOf (.slot n) u < ageOf p.ref u ↔ c.core.age < p.core.age := by
    rw [ageOf, ageOf, ownerCore_of_slot (s := u) here, ownerCore_of_single (s := u) entries]
    rfl
  have fences {t : State} (slots : t.slots = u.slots) : FencesMet t := fun m d there => by
    rw [slot_congr slots] at there
    by_cases same : m = n
    · rw [same] at there
      rw [← Option.some.inj (here.symm.trans there), met]
    · cases (others m same).symm.trans there
  have fences' : FencesMet (slotWithdrawn n c (failureOn .withdrawn h z) u) := fun m d there => by
    rw [slotWithdrawn_slot] at there
    by_cases same : m = n
    · rw [if_pos same] at there
      rw [← Option.some.inj there]
      exact met
    · rw [if_neg same] at there
      cases (others m same).symm.trans there
  have state : (u.ap y.aperture).state ≠ .draining := place ▸ undrained
  rw [withdrawAll_eq_sweep unqueued queued, sweep_of_two (s := u) two]
  simp only [write_taken, read_taken, if_true, ages]
  refine if_congr Iff.rfl ?_ ?_
  · have first : withdraw (.slot n) u = slotWithdrawn n c (failureOn .withdrawn h z) u :=
      withdraw_of_slot (s := u) here progress generation place' pieces mark no_ops' rfl unqueued
    rw [first]
    refine withdraw_loses (s := slotWithdrawn n c (failureOn .withdrawn h z) u) ((slotWithdrawn_postQueue _ _ _ _).trans entries)
      translating ?_ (slotWithdrawn_missQueue _ _ _ _) ((slotWithdrawn_unqueued _ _ _ _).trans unqueued) fences' ?_
    · exact noOps_congr (slotWithdrawn_tags _ _ _ _) (slotWithdrawn_parked _ _ _ _) no_ops
    · rw [slotWithdrawn_ap]
      exact state
  · have first : leaveTurn p.ref (withdraw p.ref u) = lost p (failureOn .withdrawn g y) u :=
      withdraw_loses (s := u) entries translating no_ops rfl unqueued (fences rfl) state
    rw [first]
    exact withdraw_of_slot (s := lost p (failureOn .withdrawn g y) u) ((slot_congr (lost_slots _ _ _) n).trans here) progress
      generation place' pieces mark (noOps_congr (lost_tags _ _ _) (lost_parked _ _ _) no_ops') (lost_missQueue _ _ _)
      ((lost_unqueued _ _ _).trans unqueued)

end

/-- With both withdrawn nothing is offered. -/
theorem BothWithdrawn.offerTags_reofferWith {p : PostEntry} {n : SlotId} {c : Slot} {f f' : Failure} {s t : State}
    (h : BothWithdrawn p n c f f' s t) (unqueued : s.unqueued = []) (misses : s.missQueue = []) (jobs : s.jobs = [])
    (going : s.quiescing = false) (others : ∀ m, m ≠ n → s.slot m = none) : offerTags (reofferWith [p.ref] [] t) = t := by
  have same : reofferWith [p.ref] [] t = t :=
    reofferWith_of_no_entries (h.unqueued.trans unqueued) h.entries (by simp [PostEntry.ref])
  rw [same]
  refine offerTags_of_nothingWaits ⟨h.untouched.quiescing.trans going, noneQueued_of_nil (h.misses.trans misses),
    .inl (h.untouched.jobs.trans jobs), waitingWrite_of_nil h.entries, ?_⟩
  exact waitingRead_of_none_waits ((h.slot n).trans (if_pos rfl))
    (fun m other => (h.slot m).trans ((if_neg other).trans (others m other))) fun reading => by cases reading

end Sys2Proof.Machine
end

section
/-! CLAIM. A walk that finds its list changed (R19 to R23, R66, R67, R69). -/

namespace Sys2Proof.Machine

open Sys2Proof.Claims

theorem noOps_faultPosted {o : OwnerRef} {k : ApId} {f : Finding} {own : TagId} {rest : List WalkRequest} {s : State}
    (no_ops : NoOps o s) : NoOps o (faultPosted k f (walkOver own .free rest s)) :=
  noOps_congr (post_tags _ _) (post_parked _ _) (noOps_of_freed no_ops)

theorem overruled_of_queued {k : ApId} {v : WalkRequest} (queued : v.walk = none) (own : v.aperture = k) :
    (overruled k v).walk = none ∧ (overruled k v).aperture = k := by
  simp [overruled, own, queued]

section
variable {e : EngineId} {op : Op} {w : WalkRequest} {x : Walk} {rest : List WalkRequest} {lanes : Lanes} {f : Finding}
  {s : State} (current : CurrentWalk e op w x rest s) (active : (s.ap w.aperture).state = .active)
  (wrong : FindsWrong w x (s.places w.aperture) (walkEntries op lanes) f.cause f.sub f.index)
include current active wrong

/-- A finding of an ACTIVE aperture: its owners are withdrawn, and the waiters that are left are offered again. -/
theorem exec_fault_active (unmarked : Unmarked s) : exec (.responseOk (engineTag e) lanes) s =
    .next (offerTags (reofferWith (w.waiters.map (·.1)) []
      (withdrawAll w.aperture (faultPosted w.aperture f (walkOver (engineTag e) .free rest s))))) := by
  have faults : faultAperture w.aperture f (walkOver (engineTag e) .free rest s) =
      withdrawAll w.aperture (faultPosted w.aperture f (walkOver (engineTag e) .free rest s)) := by
    rw [faultAperture_eq (unmarked_walkOver unmarked _ _ _)]
    exact if_neg fun h => ApState.noConfusion (active.symm.trans h)
  rw [exec_fault (walkIn_of_walking (js := s.jobs) current.toWalking) current.kept current.current wrong
    (by rw [active]; rfl), faults]

/-- A write behind another of its requester is withdrawn and stays (R22, R99). -/
theorem exec_fault_behind {p p' : PostEntry} {g : Progress} {y : Place} {i : Nat} (alone : rest = [])
    (entries : s.postQueue = [p', p]) (same : p'.core.requester = p.core.requester) (behind : p'.sequence ≠ p.sequence)
    (issued : p'.state = .issued) (ended : p'.core.progress = none) (mark : p'.core.settlingMark = false)
    (sent : ∀ q ∈ p'.core.pieces, q.state = .issued) (translating : Translating p g y) (place : y.aperture = w.aperture)
    (waiters : w.waiters = [(p.ref, i)]) (no_ops : NoOps p.ref s) (empty : ∀ n : SlotId, s.slot n = none)
    (unparked : ∀ z ∈ s.parked, z.waiting = false) :
    exec (.responseOk (engineTag e) lanes) s = .next (setPostQueue [p', withdrawnEntry p (failureOn .withdrawn g y)]
      (faultPosted w.aperture f (walkOver (engineTag e) .free rest s))) := by
  subst alone
  let v : State := faultPosted w.aperture f (walkOver (engineTag e) .free [] s)
  let d : PostEntry := withdrawnEntry p (failureOn .withdrawn g y)
  have leaves := faultPosted_leaves w.aperture f (engineTag e) [] s
  have unmarked : Unmarked s := by
    refine ⟨fun q mem => ?_, fun n c here => by cases (empty n).symm.trans here⟩
    rcases (by simpa [entries] using mem : q = p' ∨ q = p) with rfl | rfl
    · exact mark
    · exact translating.mark
  have empty' : ∀ n : SlotId, v.slot n = none := fun n => (slot_congr leaves.slots n).trans (empty n)
  have withdrawn : withdrawAll w.aperture v = setPostQueue [p', d] v :=
    withdrawAll_behind (leaves.entries.trans entries) behind translating ended same place issued (noOps_faultPosted no_ops)
      leaves.misses (leaves.unqueued.trans current.unqueued) empty'
  have offered : reofferWith [p.ref] [] (setPostQueue [p', d] v) = setPostQueue [p', d] v :=
    reofferWith_behind (d := d) (s := setPostQueue [p', d] v) rfl same behind issued rfl
      (leaves.unqueued.trans current.unqueued) empty'
  have still : offerTags (setPostQueue [p', d] v) = setPostQueue [p', d] v := by
    refine offerTags_of_still_pieces (s := setPostQueue [p', d] v) (leaves.quiescing.trans current.going) leaves.misses
      ((post_jobs _ _).trans current.jobs) empty' fun a mem q member => ?_
    rcases (by simpa using mem : a = p' ∨ a = d) with rfl | rfl
    · have parked : (setPostQueue [a, d] v).parked = s.parked := post_parked _ _
      rw [pieceWaits_of_issued (sent q member), waitingOp_of_none_waiting (parked ▸ unparked)]
      rfl
    · obtain ⟨q', -, rfl⟩ := List.mem_map.mp member
      exact pieceWaits_of_over PieceState.noConfusion PieceState.noConfusion _ _
  rw [exec_fault_active current active wrong unmarked, withdrawn, waiters]
  exact next_congr ((congrArg offerTags offered).trans still)

/-- A write and a read, not fully translated, are withdrawn (R22). -/
theorem exec_fault_both {p : PostEntry} {g : Progress} {y : Place} {n : SlotId} {c : Slot} {h : Progress} {z : Place}
    {i : Nat} {w' : WalkRequest} (entries : s.postQueue = [p]) (translating : Translating p g y)
    (place : y.aperture = w.aperture) (waiters : w.waiters = [(p.ref, i)]) (no_ops : NoOps p.ref s)
    (here : s.slot n = some c) (others : ∀ m, m ≠ n → s.slot m = none) (met : c.fenceMet = true)
    (progress : c.core.progress = some h) (generation : c.core.generation = none) (place' : c.core.place = some z)
    (own : z.aperture = w.aperture) (pieces : ∀ q ∈ c.core.pieces, q.state = .pending) (mark : c.core.settlingMark = false)
    (no_ops' : NoOps (.slot n) s) (alone : rest = [w']) (queued : w'.walk = none) (own' : w'.aperture = w.aperture) :
    let v : State := { faultPosted w.aperture f (walkOver (engineTag e) .free rest s) with missQueue := [] }
    ∃ t, exec (.responseOk (engineTag e) lanes) s = .next t ∧
      BothWithdrawn p n c (failureOn .withdrawn g y) (failureOn .withdrawn h z) v t ∧
      t = if c.core.age < p.core.age
        then lost p (failureOn .withdrawn g y) (slotWithdrawn n c (failureOn .withdrawn h z) v)
        else slotWithdrawn n c (failureOn .withdrawn h z) (lost p (failureOn .withdrawn g y) v) := by
  intro v
  have leaves := faultPosted_leaves w.aperture f (engineTag e) rest s
  have unmarked : Unmarked s := by
    refine ⟨fun q mem => ?_, fun m d there => ?_⟩
    · rw [entries, List.mem_singleton] at mem
      exact mem ▸ translating.mark
    · by_cases same : m = n
      · rw [same] at there
        rw [← Option.some.inj (here.symm.trans there), mark]
      · cases (others m same).symm.trans there
  have others' : ∀ m, m ≠ n → v.slot m = none := fun m other => (slot_congr leaves.slots m).trans (others m other)
  have faulted : ((faultPosted w.aperture f (walkOver (engineTag e) .free rest s)).ap w.aperture).state ≠ .draining := by
    rw [leaves.apertures, if_pos rfl]
    exact ApState.noConfusion
  have queue : ∀ u ∈ (faultPosted w.aperture f (walkOver (engineTag e) .free rest s)).missQueue,
      u.walk = none ∧ u.aperture = w.aperture := by
    rw [leaves.misses, alone]
    simpa using overruled_of_queued queued own'
  have withdrawn := withdrawAll_both (leaves.entries.trans entries) translating place (noOps_faultPosted no_ops)
    ((slot_congr leaves.slots n).trans here) others' met progress generation place' own pieces mark
    (noOps_faultPosted no_ops') (leaves.unqueued.trans current.unqueued) faulted queue
  have both : BothWithdrawn p n c (failureOn .withdrawn g y) (failureOn .withdrawn h z) v
      (withdrawAll w.aperture (faultPosted w.aperture f (walkOver (engineTag e) .free rest s))) := by
    rw [withdrawn]
    split
    · exact ⟨.inl rfl⟩
    · exact ⟨.inr rfl⟩
  refine ⟨_, ?_, both, withdrawn⟩
  rw [exec_fault_active current active wrong unmarked, waiters]
  exact next_congr (both.offerTags_reofferWith (leaves.unqueued.trans current.unqueued) rfl
    ((post_jobs _ _).trans current.jobs) (leaves.quiescing.trans current.going) others')

end

theorem failedSlot_congr {c : Slot} {f : Failure} {ps : List Piece} {s t : State} (settings : t.settings = s.settings) :
    failedSlot c f ps t = failedSlot c f ps s := by rw [failedSlot, settings, failedSlot]

/-- Settles O30. -/
theorem aFindingFaultsTheAperture : Obligations.AFindingFaultsTheAperture := by
  intro e op w x rest lanes why b at' s k own faulted emptied fault wrong
  let f : Finding := { cause := why, sub := b, index := at' }
  let gone : State := walkOver own .free rest s
  have fault_of (none : NoOwners rest s) {t : State} (leaves : FaultLeaves k rest own s t) : fault t := by
    refine ⟨leaves.misses.trans (List.map_congr_left fun y mem => overruled_of_running (none.running y mem)), leaves.free,
      leaves.requesters, leaves.checkpoints, leaves.entries.trans none.entries, leaves.slots, leaves.out, leaves.apertures,
      leaves.cache⟩
  have report (current : w.generation = (s.ap k).generation) : faultReport k f gone = faulted := by
    simp only [faulted, current]
    rfl
  have full (current : w.generation = (s.ap k).generation) {u : State}
      (same : u.reports = (faultPosted k f gone).reports) (room : s.reports.length < 15) :
      (post (abortReport k gone) u).reports = s.reports ++ [faulted,
        { kind := .rebindFailed, cause := some .aborted, aperture := some k, generation := some w.generation }] := by
    have first := same.trans (faultPosted_reports (k := k) (f := f) (own := own) (rest := rest) (s := s) (by omega))
    rw [report current] at first
    rw [post_of_room _ (by simp [first]; omega), current]
    simp only [first, List.append_assoc]
    rfl
  refine ⟨fun current none state => ?serving, fun j current none state job => ⟨fun jobs running => ?running, ?waiting⟩,
    fun p g y n c h z i j w' current active entries translating place waiters no_ops here others _ met progress generation
      place' own' pieces mark no_ops' alone queued own'' _ ages => ?both,
    fun p p' g y i current active alone entries same behind issued ended mark sent translating place waiters no_ops empty
      unparked => ?behind,
    fun current state counted still slot running => ⟨fun entries waiters => ?alone,
      fun p g y i entries translating place waiters no_ops met elsewhere => ?waiter⟩,
    fun i u walking dropped entries waiters still running state runs => ?dropped⟩
  case serving =>
    have serves : (s.ap k).state.serves = true ∧ (s.ap k).state ≠ .rebinding .validating := by
      rcases state with h | h <;> rw [h] <;> exact ⟨rfl, by simp⟩
    have runs := exec_fault_serving (f := f) (walkIn_of_walking (js := s.jobs) current.toWalking) current.kept
      current.current wrong none current.unqueued current.jobs current.going serves.1 serves.2
    refine ⟨_, runs, fault_of none (faultPosted_leaves k f own rest s), faultPosted_untouched,
      fun u other => faultPosted_tag other, fun room => ?_⟩
    rw [← report current.current]
    exact faultPosted_reports room
  case running =>
    have cancelled : cancelJob k (faultPosted k f gone) =
        cancelOps anyLine true { faultPosted k f gone with jobs := [], validation := Option.none } :=
      cancelJob_of_running ((post_jobs _ _).trans jobs) job running
    have leaves := (((faultPosted_leaves k f own rest s).dequeued [] Option.none).cancelled anyLine true).posted (abortReport k gone)
    have runs := exec_fault_validating (f := f) (walkIn_of_walking current.toWalking) current.kept
      current.current wrong none current.unqueued current.going state cancelled leaves
      (runValidation_of_no_jobs (post_jobs _ _))
    have tag (u : TagId) (other : u ≠ own) : (post (abortReport k gone) (cancelOps anyLine true
        { faultPosted k f gone with jobs := [], validation := Option.none })).tag u = (s.tag u).cancel anyLine true :=
      (post_tag _ _ _).trans ((cancelOps_tag _ _ _ _).trans
        (congrArg (TagState.cancel anyLine true) (faultPosted_tag (k := k) (f := f) other) :))
    refine ⟨_, runs, fault_of none leaves, ?_, fun u other o n out line => (tag u other).trans (tag_of_line out line),
      fun u other no_line => (tag u other).trans (tag_of_no_line no_line), fun z => ?_, fun room => ?_⟩
    · constructor <;> simp [faultPosted, walkOver, faultedBy, unmoved, gone]
    · rw [post_parked]
      refine (mem_parked_cancelOps z _).trans ?_
      simp [faultPosted, walkOver, faultedBy, unmoved, gone]
    · refine full current.current ?_ room
      rfl
  case waiting =>
    intro first before after jobs running idle others busy
    have cancelled : cancelJob k (faultPosted k f gone) =
        { faultPosted k f gone with jobs := first :: (before ++ after) } :=
      cancelJob_of_waiting ((post_jobs _ _).trans jobs) job others
    have leaves := ((faultPosted_leaves k f own rest s).dequeued (first :: (before ++ after))
      (faultPosted k f gone).validation).posted (abortReport k gone)
    have tag (u : TagId) (other : u ≠ own) : (post (abortReport k gone)
        { faultPosted k f gone with jobs := first :: (before ++ after) }).tag u = s.tag u :=
      (post_tag _ _ _).trans (faultPosted_tag (k := k) (f := f) other)
    have busy' : NoneFree .validation (post (abortReport k gone)
        { faultPosted k f gone with jobs := first :: (before ++ after) }) := fun u cls => by
      have other : u ≠ own := fun same => by cases (tagClass_engineTag e).symm.trans (same ▸ cls)
      rw [tag u other]
      exact busy u cls
    have runs := exec_fault_validating (f := f) (walkIn_of_walking current.toWalking) current.kept
      current.current wrong none current.unqueued current.going state cancelled leaves
      (runValidation_of_noneFree (post_jobs _ _) running busy')
    refine ⟨_, runs, fault_of none leaves, ?_, tag, ?_, fun room => ?_⟩
    · constructor <;> simp [faultPosted, walkOver, faultedBy, unmoved, gone]
    · rw [post_parked]
      simp [faultPosted, walkOver, faultedBy, unmoved, gone]
    · refine full current.current ?_ room
      rfl
  case both =>
    obtain ⟨t, runs, both, order⟩ := exec_fault_both (f := f) current active wrong entries translating place waiters no_ops
      here others met progress generation place' own' pieces mark no_ops' alone queued own''
    have leaves := faultPosted_leaves k f own rest s
    have base : Untouched s { faultPosted k f gone with missQueue := [] } :=
      untouched_trans faultPosted_untouched ⟨rfl, rfl, rfl, rfl, rfl, rfl, rfl, rfl⟩
    have write : (p.core.place.map (·.aperture)) = some k := by rw [translating.place, Option.map_some, place]
    have read : (c.core.place.map (·.aperture)) = some k := by rw [place', Option.map_some, own']
    refine ⟨t, runs, both.misses, both.entries, ?_, fun m other => (both.slot m).trans ((if_neg other).trans
      ((slot_congr leaves.slots m).trans (others m other))), (tag_congr both.tags own).trans leaves.free,
      fun u other => (tag_congr both.tags u).trans (faultPosted_tag other), ?_, ?_, ?_, ?_, fun r other => ?_, fun a => ?_,
      fun a => (cached_congr both.cache a).trans (leaves.cache a), fun room => ?_⟩
    · exact (both.slot n).trans ((if_pos rfl).trans (congrArg some (failedSlot_congr base.settings)))
    · exact untouched_trans base both.untouched
    · rw [both.req, if_pos rfl]
    · rw [both.req, if_pos rfl]
    · rw [both.req, if_pos rfl]
      exact congrArg (fun q : Requester => q.queuedWrites - 1) (req_congr leaves.requesters _)
    · exact (both.req r).trans ((if_neg other).trans (req_congr leaves.requesters r))
    · by_cases same : a = k
      · rw [if_pos same, same, both.ap_own write read]
        have record : ({ faultPosted k f gone with missQueue := [] } : State).ap k =
            { s.ap k with state := .faulted, pendingList := none, settling := 0, resume := none } :=
          (leaves.apertures k).trans (if_pos rfl)
        exact congrArg (fun x : Aperture => { x with
          inFlight := x.inFlight - 1, faultCount := min 255 (x.faultCount + 2) }) record
      · have elsewhere : some k ≠ some a := fun h => same (Option.some.inj h).symm
        rw [if_neg same, both.ap_other (write ▸ elsewhere) (read ▸ elsewhere)]
        exact (leaves.apertures a).trans (if_neg same)
    · have held : ({ faultPosted k f gone with missQueue := [] } : State).reports = s.reports ++ [faulted] := by
        rw [← report current.current]
        exact faultPosted_reports (by omega)
      have of_write : writeLostReport p (failureOn .withdrawn g y) =
          { kind := .writeLost, cause := some .withdrawn, requester := some p.core.requester
            sequence := some p.sequence, address := some p.core.address, aperture := some k
            generation := some g.generation, windowOffset := some y.offset } := by
        rw [writeLostReport, write]
        rfl
      have room' : ({ faultPosted k f gone with missQueue := [] } : State).reports.length < 15 := by
        rw [held, List.length_append]
        exact Nat.succ_lt_succ room
      change t.reports = s.reports ++ faulted :: (if p.core.age < c.core.age then [_, _] else [_, _])
      rw [order, ← of_write]
      by_cases older : c.core.age < p.core.age
      · rw [if_pos older, if_neg (Nat.lt_asymm older)]
        exact (lost_slotWithdrawn_reports _ _ _ _ _ _ room').trans (by rw [held, List.append_assoc]; rfl)
      · rw [if_neg older, if_pos (by omega)]
        exact (slotWithdrawn_lost_reports _ _ _ _ _ _ room').trans (by rw [held, List.append_assoc]; rfl)
  case behind =>
    have leaves := faultPosted_leaves k f own rest s
    refine ⟨_, exec_fault_behind (f := f) current active wrong alone entries same behind issued ended mark sent translating
      place waiters no_ops empty unparked, ?_, leaves.misses.trans (by rw [alone]; rfl), leaves.requesters, leaves.slots, ?_, leaves.free,
      fun u other => faultPosted_tag other, leaves.cache, leaves.apertures, fun room => ?_⟩
    · exact congrArg (fun d => [p', d]) (withdrawnEntry_eq p _)
    · exact untouched_trans faultPosted_untouched ⟨rfl, rfl, rfl, rfl, rfl, rfl, rfl, rfl⟩
    · rw [← report current.current]
      exact faultPosted_reports room
  case alone =>
    exact exec_finding_draining_alone (f := f) current state counted still slot running wrong entries waiters
  case waiter =>
    exact exec_finding_draining_waiter (f := f) current state counted still slot running wrong entries translating place
      waiters no_ops met elsewhere
  case dropped =>
    obtain ⟨r, ends⟩ := exec_of_walk_end walking wrong runs
    rw [ends, endWalk_unchanged walking entries waiters still running (fun u => undrained_walkOver state _ u _)
      (walkOutcome_of_dropped dropped r _)]
    rfl

end Sys2Proof.Machine
end
